-- ==== Sys2Proof/Word.lean ====
section
/-! DEFINITION. The word and accumulator types, spec/00_scope.md R7, R9. -/

namespace Sys2Proof

/-- A 16-bit data, instruction or address word (R7). -/
abbrev Word := BitVec 16

/-- A 36-bit accumulator value: 4 extension bits, 16 high bits, 16 low bits (R7, R9). -/
abbrev Acc36 := BitVec 36

end Sys2Proof
end

