-- ==== Sys2Proof/Config.lean ====
section
/-! DEFINITION. What the spec leaves to the platform: parameters (spec/92_eei_decisions.md section 1) and
free values. A free value has no body: nothing can be proved of it. -/

namespace Sys2Proof

/-- COPY_SOURCE of R258: which accumulator `copy aX` reads. -/
inductive CopySource where
  | same
  | other
  deriving DecidableEq, Repr

/-- What the platform does on an access with nothing behind the address (U16). -/
inductive Unmapped where
  /-- A read gives any value, a write is dropped. -/
  | anyValue
  /-- The model gives no result. -/
  | refuse
  deriving DecidableEq, Repr

/-- A free 16-bit value, a fresh one for each value of the counter. DESIGN CHOICE, log 6; safe. -/
opaque Config.freeWord (n : Nat) : Word

/-- A free 36-bit value. DESIGN CHOICE, log 6; safe. -/
opaque Config.freeAcc (n : Nat) : Acc36

/-- A free bit. DESIGN CHOICE, log 6; safe. -/
opaque Config.freeBit (n : Nat) : Bool

/-- EXT_READ(k) (R67, D4): what the platform answers on port k. DESIGN CHOICE, log 10; safe. -/
opaque Config.extRead (k : BitVec 2) (n : Nat) : Word

/-- MB_LAYOUT3 (R527, D29): the mailbox of each 16-word block in configuration 11. DESIGN CHOICE, log 11; safe. -/
opaque Config.mbLayout3 (block : BitVec 4) : BitVec 3

/-- COPY_SOURCE, default `same` (D20). Log 5. -/
def Config.copySource : CopySource := .same

/-- UNMAPPED_DATA, default `refuse` (R83, D5). Log 4. -/
def Config.unmappedData : Unmapped := .refuse

/-- UNMAPPED_PROG, default `refuse` (R81, D6). Log 4. -/
def Config.unmappedProg : Unmapped := .refuse

/-- CODEC_FIFO_DEPTH, at least 3, default 4 (D31). Log 5. -/
def Config.codecFifoDepth : Nat := 4

/-- CODEC_HALF_ORDER, default high half first (R536, D31). Log 5. -/
def Config.codecHighFirst : Bool := true

/-- OCEM_DAM_POLARITY, default: a 1 in DAM masks the bit out (R509, D27). Log 5. -/
def Config.damOneMasks : Bool := true

/-- OCEM_DBG, the CA1 pin at the end of reset, default 0 (R505, D26). Log 5. -/
def Config.ocemDbg : Bool := false

/-- OCEM_BOOT, the CA0 pin at the end of reset, default 0 (R505, D26). Log 5. -/
def Config.ocemBoot : Bool := false

/-- OCEM_ABORT, the input behind STATUS0.ABORT, default 0 (R504, D26). Log 39. -/
def Config.ocemAbort : Bool := false

end Sys2Proof
end

