-- ==== Sys2Proof/Syntax.lean ====
section
/-! DEFINITION. The instruction set as syntax: one constructor of `Instr` for each row of
spec/opcode_table.json (spec/30_encoding.md R145 to R156). -/

namespace Sys2Proof

/-- The a-accumulators, field A (R134). -/
inductive AccA where
  | a0 | a1
  deriving DecidableEq, Repr

/-- The b-accumulators, field B (R134). -/
inductive AccB where
  | b0 | b1
  deriving DecidableEq, Repr

/-- The four accumulators, field AB, in the order of its codes (R135). -/
inductive Acc where
  | b0 | b1 | a0 | a1
  deriving DecidableEq, Repr

/-- A half of an accumulator, field L (R134). -/
inductive Half where
  | lo | hi
  deriving DecidableEq, Repr

/-- The address registers rN (R137). -/
inductive RN where
  | r0 | r1 | r2 | r3 | r4 | r5
  deriving DecidableEq, Repr

/-- The group I address registers rI, field qq (R137). -/
inductive RI where
  | r0 | r1 | r2 | r3
  deriving DecidableEq, Repr

/-- The group J address registers rJ, field w (R137). -/
inductive RJ where
  | r4 | r5
  deriving DecidableEq, Repr

/-- The registers rN* (R137). -/
inductive RNStar where
  | r0 | r1 | r2 | r3 | r4 | r5 | rb | y
  deriving DecidableEq, Repr

/-- The post-modification fields mm, ii, jj (R99, R138). -/
inductive PostMod where
  | keep | inc | dec | step
  deriving DecidableEq, Repr

/-- The 32 coded registers of class REG, in the order of their codes (R140). Code 01011 is `p` as a source
and ph as a destination. -/
inductive Reg where
  | r0 | r1 | r2 | r3 | r4 | r5 | rb | y
  | st0 | st1 | st2 | p | pc | sp | cfgi | cfgj
  | b0h | b1h | b0l | b1l | ext0 | ext1 | ext2 | ext3
  | a0 | a1 | a0l | a1l | a0h | a1h | lc | sv
  deriving DecidableEq, Repr

/-- The conditions, in the order of their codes (R141). -/
inductive Cond where
  | always | eq | neq | gt | ge | lt | le | nn
  | c | v | e | l | nr | niu0 | iu0 | iu1
  deriving DecidableEq, Repr

/-- The fourteen swap options, in the order of their codes (R143): `a0b0` exchanges, `a0b0_a1b1` exchanges two
pairs, `a0_b0_a1` moves a0 to b0 and b0 to a1. -/
inductive SwapOpt where
  | a0b0 | a0b1 | a1b0 | a1b1 | a0b0_a1b1 | a0b1_a1b0
  | a0_b0_a1 | a0_b1_a1 | a1_b0_a0 | a1_b1_a0
  | b0_a0_b1 | b0_a1_b1 | b1_a0_b0 | b1_a1_b0
  deriving DecidableEq, Repr

/-- The registers outside class REG that `mov … , ab` reads besides icr (R361, R363, R364). -/
inductive SpecReg where
  | repc | dvm | x
  deriving DecidableEq, Repr

/-- The instructions. Two rows of exp share a constructor (with and without the accumulator destination `dst`), and
so do the three rows `mov repc|dvm|x, ab`: Lean's runtime has no room for 257 constructors with fields. The docstring of each constructor gives its row: format, encoding, rule. -/
inductive Instr where
  /-- or ALM direct: `1010000Adddddddd`, 1 word, R210. -/
  | orDirect (a : AccA) (d : BitVec 8)
  /-- or ALM (rN): `1000000A100mmnnn`, 1 word, R210. -/
  | orInd (a : AccA) (n : RN) (m : PostMod)
  /-- or ALM register: `1000000A101rrrrr`, 1 word, R210. -/
  | orReg (a : AccA) (r : Reg)
  /-- and ALM direct: `1010001Adddddddd`, 1 word, R209. -/
  | andDirect (a : AccA) (d : BitVec 8)
  /-- and ALM (rN): `1000001A100mmnnn`, 1 word, R209. -/
  | andInd (a : AccA) (n : RN) (m : PostMod)
  /-- and ALM register: `1000001A101rrrrr`, 1 word, R209. -/
  | andReg (a : AccA) (r : Reg)
  /-- xor ALM direct: `1010010Adddddddd`, 1 word, R211. -/
  | xorDirect (a : AccA) (d : BitVec 8)
  /-- xor ALM (rN): `1000010A100mmnnn`, 1 word, R211. -/
  | xorInd (a : AccA) (n : RN) (m : PostMod)
  /-- xor ALM register: `1000010A101rrrrr`, 1 word, R211. -/
  | xorReg (a : AccA) (r : Reg)
  /-- add ALM direct: `1010011Adddddddd`, 1 word, R201. -/
  | addDirect (a : AccA) (d : BitVec 8)
  /-- add ALM (rN): `1000011A100mmnnn`, 1 word, R201. -/
  | addInd (a : AccA) (n : RN) (m : PostMod)
  /-- add ALM register: `1000011A101rrrrr`, 1 word, R201. -/
  | addReg (a : AccA) (r : Reg)
  /-- tst0 ALM direct: `1010100Adddddddd`, 1 word, R328. -/
  | tst0AccDirect (a : AccA) (d : BitVec 8)
  /-- tst0 ALM (rN): `1000100A100mmnnn`, 1 word, R328. -/
  | tst0AccInd (a : AccA) (n : RN) (m : PostMod)
  /-- tst0 ALM register: `1000100A101rrrrr`, 1 word, R328. -/
  | tst0AccReg (a : AccA) (r : Reg)
  /-- tst1 ALM direct: `1010101Adddddddd`, 1 word, R329. -/
  | tst1AccDirect (a : AccA) (d : BitVec 8)
  /-- tst1 ALM (rN): `1000101A100mmnnn`, 1 word, R329. -/
  | tst1AccInd (a : AccA) (n : RN) (m : PostMod)
  /-- tst1 ALM register: `1000101A101rrrrr`, 1 word, R329. -/
  | tst1AccReg (a : AccA) (r : Reg)
  /-- cmp ALM direct: `1010110Adddddddd`, 1 word, R207. -/
  | cmpDirect (a : AccA) (d : BitVec 8)
  /-- cmp ALM (rN): `1000110A100mmnnn`, 1 word, R207. -/
  | cmpInd (a : AccA) (n : RN) (m : PostMod)
  /-- cmp ALM register: `1000110A101rrrrr`, 1 word, R207. -/
  | cmpReg (a : AccA) (r : Reg)
  /-- sub ALM direct: `1010111Adddddddd`, 1 word, R204. -/
  | subDirect (a : AccA) (d : BitVec 8)
  /-- sub ALM (rN): `1000111A100mmnnn`, 1 word, R204. -/
  | subInd (a : AccA) (n : RN) (m : PostMod)
  /-- sub ALM register: `1000111A101rrrrr`, 1 word, R204. -/
  | subReg (a : AccA) (r : Reg)
  /-- msu ALM direct: `1011000Adddddddd`, 1 word, R301. -/
  | msuDirect (a : AccA) (d : BitVec 8)
  /-- msu ALM (rN): `1001000A100mmnnn`, 1 word, R301. -/
  | msuInd (a : AccA) (n : RN) (m : PostMod)
  /-- msu ALM register: `1001000A101rrrrr`, 1 word, R301. -/
  | msuReg (a : AccA) (r : Reg)
  /-- addh ALM direct: `1011001Adddddddd`, 1 word, R202. -/
  | addhDirect (a : AccA) (d : BitVec 8)
  /-- addh ALM (rN): `1001001A100mmnnn`, 1 word, R202. -/
  | addhInd (a : AccA) (n : RN) (m : PostMod)
  /-- addh ALM register: `1001001A101rrrrr`, 1 word, R202. -/
  | addhReg (a : AccA) (r : Reg)
  /-- addl ALM direct: `1011010Adddddddd`, 1 word, R203. -/
  | addlDirect (a : AccA) (d : BitVec 8)
  /-- addl ALM (rN): `1001010A100mmnnn`, 1 word, R203. -/
  | addlInd (a : AccA) (n : RN) (m : PostMod)
  /-- addl ALM register: `1001010A101rrrrr`, 1 word, R203. -/
  | addlReg (a : AccA) (r : Reg)
  /-- subh ALM direct: `1011011Adddddddd`, 1 word, R205. -/
  | subhDirect (a : AccA) (d : BitVec 8)
  /-- subh ALM (rN): `1001011A100mmnnn`, 1 word, R205. -/
  | subhInd (a : AccA) (n : RN) (m : PostMod)
  /-- subh ALM register: `1001011A101rrrrr`, 1 word, R205. -/
  | subhReg (a : AccA) (r : Reg)
  /-- subl ALM direct: `1011100Adddddddd`, 1 word, R206. -/
  | sublDirect (a : AccA) (d : BitVec 8)
  /-- subl ALM (rN): `1001100A100mmnnn`, 1 word, R206. -/
  | sublInd (a : AccA) (n : RN) (m : PostMod)
  /-- subl ALM register: `1001100A101rrrrr`, 1 word, R206. -/
  | sublReg (a : AccA) (r : Reg)
  /-- sqr ALM direct: `1011101Adddddddd`, 1 word, R302. -/
  | sqrDirect (d : BitVec 8)
  /-- sqr ALM (rN): `1001101A100mmnnn`, 1 word, R302. -/
  | sqrInd (n : RN) (m : PostMod)
  /-- sqr ALM register: `1001101A101rrrrr`, 1 word, R302. -/
  | sqrReg (r : Reg)
  /-- sqra ALM direct: `1011110Adddddddd`, 1 word, R303. -/
  | sqraDirect (a : AccA) (d : BitVec 8)
  /-- sqra ALM (rN): `1001110A100mmnnn`, 1 word, R303. -/
  | sqraInd (a : AccA) (n : RN) (m : PostMod)
  /-- sqra ALM register: `1001110A101rrrrr`, 1 word, R303. -/
  | sqraReg (a : AccA) (r : Reg)
  /-- cmpu ALM direct: `1011111Adddddddd`, 1 word, R208. -/
  | cmpuDirect (a : AccA) (d : BitVec 8)
  /-- cmpu ALM (rN): `1001111A100mmnnn`, 1 word, R208. -/
  | cmpuInd (a : AccA) (n : RN) (m : PostMod)
  /-- cmpu ALM register: `1001111A101rrrrr`, 1 word, R208. -/
  | cmpuReg (a : AccA) (r : Reg)
  /-- or ALU #short immediate: `1100000Avvvvvvvv`, 1 word, R210. -/
  | orShort (a : AccA) (v : BitVec 8)
  /-- or ALU ##long immediate: `1000000A11000000`, 2 words, R210. -/
  | orLong (a : AccA) (v : Word)
  /-- or ALU (rb+#offset7): `0100000A0ooooooo`, 1 word, R210. -/
  | orRbShort (a : AccA) (o : BitVec 7)
  /-- or ALU (rb+##offset): `1101010A11011000`, 2 words, R210. -/
  | orRbLong (a : AccA) (o : Word)
  /-- or ALU [##direct]: `1101010A11111000`, 2 words, R210. -/
  | orLongDirect (a : AccA) (addr : Word)
  /-- and ALU #short immediate: `1100001Avvvvvvvv`, 1 word, R209. -/
  | andShort (a : AccA) (v : BitVec 8)
  /-- and ALU ##long immediate: `1000001A11000000`, 2 words, R209. -/
  | andLong (a : AccA) (v : Word)
  /-- and ALU (rb+#offset7): `0100001A0ooooooo`, 1 word, R209. -/
  | andRbShort (a : AccA) (o : BitVec 7)
  /-- and ALU (rb+##offset): `1101010A11011001`, 2 words, R209. -/
  | andRbLong (a : AccA) (o : Word)
  /-- and ALU [##direct]: `1101010A11111001`, 2 words, R209. -/
  | andLongDirect (a : AccA) (addr : Word)
  /-- xor ALU #short immediate: `1100010Avvvvvvvv`, 1 word, R211. -/
  | xorShort (a : AccA) (v : BitVec 8)
  /-- xor ALU ##long immediate: `1000010A11000000`, 2 words, R211. -/
  | xorLong (a : AccA) (v : Word)
  /-- xor ALU (rb+#offset7): `0100010A0ooooooo`, 1 word, R211. -/
  | xorRbShort (a : AccA) (o : BitVec 7)
  /-- xor ALU (rb+##offset): `1101010A11011010`, 2 words, R211. -/
  | xorRbLong (a : AccA) (o : Word)
  /-- xor ALU [##direct]: `1101010A11111010`, 2 words, R211. -/
  | xorLongDirect (a : AccA) (addr : Word)
  /-- add ALU #short immediate: `1100011Avvvvvvvv`, 1 word, R201. -/
  | addShort (a : AccA) (v : BitVec 8)
  /-- add ALU ##long immediate: `1000011A11000000`, 2 words, R201. -/
  | addLong (a : AccA) (v : Word)
  /-- add ALU (rb+#offset7): `0100011A0ooooooo`, 1 word, R201. -/
  | addRbShort (a : AccA) (o : BitVec 7)
  /-- add ALU (rb+##offset): `1101010A11011011`, 2 words, R201. -/
  | addRbLong (a : AccA) (o : Word)
  /-- add ALU [##direct]: `1101010A11111011`, 2 words, R201. -/
  | addLongDirect (a : AccA) (addr : Word)
  /-- cmp ALU #short immediate: `1100110Avvvvvvvv`, 1 word, R207. -/
  | cmpShort (a : AccA) (v : BitVec 8)
  /-- cmp ALU ##long immediate: `1000110A11000000`, 2 words, R207. -/
  | cmpLong (a : AccA) (v : Word)
  /-- cmp ALU (rb+#offset7): `0100110A0ooooooo`, 1 word, R207. -/
  | cmpRbShort (a : AccA) (o : BitVec 7)
  /-- cmp ALU (rb+##offset): `1101010A11011110`, 2 words, R207. -/
  | cmpRbLong (a : AccA) (o : Word)
  /-- cmp ALU [##direct]: `1101010A11111110`, 2 words, R207. -/
  | cmpLongDirect (a : AccA) (addr : Word)
  /-- sub ALU #short immediate: `1100111Avvvvvvvv`, 1 word, R204. -/
  | subShort (a : AccA) (v : BitVec 8)
  /-- sub ALU ##long immediate: `1000111A11000000`, 2 words, R204. -/
  | subLong (a : AccA) (v : Word)
  /-- sub ALU (rb+#offset7): `0100111A0ooooooo`, 1 word, R204. -/
  | subRbShort (a : AccA) (o : BitVec 7)
  /-- sub ALU (rb+##offset): `1101010A11011111`, 2 words, R204. -/
  | subRbLong (a : AccA) (o : Word)
  /-- sub ALU [##direct]: `1101010A11111111`, 2 words, R204. -/
  | subLongDirect (a : AccA) (addr : Word)
  /-- shr moda func,aX,cond: `011A01110000cccc`, 1 word, R244. -/
  | shrA (a : AccA) (cc : Cond)
  /-- shr4 moda func,aX,cond: `011A01110001cccc`, 1 word, R245. -/
  | shr4A (a : AccA) (cc : Cond)
  /-- shl moda func,aX,cond: `011A01110010cccc`, 1 word, R246. -/
  | shlA (a : AccA) (cc : Cond)
  /-- shl4 moda func,aX,cond: `011A01110011cccc`, 1 word, R247. -/
  | shl4A (a : AccA) (cc : Cond)
  /-- ror moda func,aX,cond: `011A01110100cccc`, 1 word, R248. -/
  | rorA (a : AccA) (cc : Cond)
  /-- rol moda func,aX,cond: `011A01110101cccc`, 1 word, R249. -/
  | rolA (a : AccA) (cc : Cond)
  /-- clr moda func,aX,cond: `011A01110110cccc`, 1 word, R250. -/
  | clrA (a : AccA) (cc : Cond)
  /-- not moda func,aX,cond: `011A01111000cccc`, 1 word, R251. -/
  | notA (a : AccA) (cc : Cond)
  /-- neg moda func,aX,cond: `011A01111001cccc`, 1 word, R252. -/
  | negA (a : AccA) (cc : Cond)
  /-- rnd moda func,aX,cond: `011A01111010cccc`, 1 word, R253. -/
  | rndA (a : AccA) (cc : Cond)
  /-- pacr moda func,aX,cond: `011A01111011cccc`, 1 word, R254. -/
  | pacrA (a : AccA) (cc : Cond)
  /-- clrr moda func,aX,cond: `011A01111100cccc`, 1 word, R255. -/
  | clrrA (a : AccA) (cc : Cond)
  /-- inc moda func,aX,cond: `011A01111101cccc`, 1 word, R256. -/
  | incA (a : AccA) (cc : Cond)
  /-- dec moda func,aX,cond: `011A01111110cccc`, 1 word, R257. -/
  | decA (a : AccA) (cc : Cond)
  /-- copy moda func,aX,cond: `011A01111111cccc`, 1 word, R258. -/
  | copyA (a : AccA) (cc : Cond)
  /-- shr modb func,bX,cond: `011B11110000cccc`, 1 word, R261. -/
  | shrB (b : AccB) (cc : Cond)
  /-- shr4 modb func,bX,cond: `011B11110001cccc`, 1 word, R262. -/
  | shr4B (b : AccB) (cc : Cond)
  /-- shl modb func,bX,cond: `011B11110010cccc`, 1 word, R263. -/
  | shlB (b : AccB) (cc : Cond)
  /-- shl4 modb func,bX,cond: `011B11110011cccc`, 1 word, R264. -/
  | shl4B (b : AccB) (cc : Cond)
  /-- ror modb func,bX,cond: `011B11110100cccc`, 1 word, R265. -/
  | rorB (b : AccB) (cc : Cond)
  /-- rol modb func,bX,cond: `011B11110101cccc`, 1 word, R266. -/
  | rolB (b : AccB) (cc : Cond)
  /-- clr modb func,bX,cond: `011B11110110cccc`, 1 word, R267. -/
  | clrB (b : AccB) (cc : Cond)
  /-- norm aX,(rN): `1001010A110mmnnn`, 1 word, R276. -/
  | norm (a : AccA) (n : RN) (m : PostMod)
  /-- divs direct,aX: `0000111Adddddddd`, 1 word, R214. -/
  | divs (a : AccA) (d : BitVec 8)
  /-- set ALB ##long,(rN): `10000000111mmnnn`, 2 words, R322. -/
  | setInd (v : Word) (n : RN) (m : PostMod)
  /-- set ALB ##long,register: `10000001111rrrrr`, 2 words, R322. -/
  | setReg (v : Word) (r : Reg)
  /-- set ALB ##long,direct: `11100001dddddddd`, 2 words, R322. -/
  | setDirect (v : Word) (d : BitVec 8)
  /-- rst ALB ##long,(rN): `10000010111mmnnn`, 2 words, R323. -/
  | rstInd (v : Word) (n : RN) (m : PostMod)
  /-- rst ALB ##long,register: `10000011111rrrrr`, 2 words, R323. -/
  | rstReg (v : Word) (r : Reg)
  /-- rst ALB ##long,direct: `11100011dddddddd`, 2 words, R323. -/
  | rstDirect (v : Word) (d : BitVec 8)
  /-- chng ALB ##long,(rN): `10000100111mmnnn`, 2 words, R324. -/
  | chngInd (v : Word) (n : RN) (m : PostMod)
  /-- chng ALB ##long,register: `10000101111rrrrr`, 2 words, R324. -/
  | chngReg (v : Word) (r : Reg)
  /-- chng ALB ##long,direct: `11100101dddddddd`, 2 words, R324. -/
  | chngDirect (v : Word) (d : BitVec 8)
  /-- addv ALB ##long,(rN): `10000110111mmnnn`, 2 words, R325. -/
  | addvInd (v : Word) (n : RN) (m : PostMod)
  /-- addv ALB ##long,register: `10000111111rrrrr`, 2 words, R325. -/
  | addvReg (v : Word) (r : Reg)
  /-- addv ALB ##long,direct: `11100111dddddddd`, 2 words, R325. -/
  | addvDirect (v : Word) (d : BitVec 8)
  /-- tst0 ALB ##long,(rN): `10001000111mmnnn`, 2 words, R328. -/
  | tst0LongInd (v : Word) (n : RN) (m : PostMod)
  /-- tst0 ALB ##long,register: `10001001111rrrrr`, 2 words, R328. -/
  | tst0LongReg (v : Word) (r : Reg)
  /-- tst0 ALB ##long,direct: `11101001dddddddd`, 2 words, R328. -/
  | tst0LongDirect (v : Word) (d : BitVec 8)
  /-- tst1 ALB ##long,(rN): `10001010111mmnnn`, 2 words, R329. -/
  | tst1LongInd (v : Word) (n : RN) (m : PostMod)
  /-- tst1 ALB ##long,register: `10001011111rrrrr`, 2 words, R329. -/
  | tst1LongReg (v : Word) (r : Reg)
  /-- tst1 ALB ##long,direct: `11101011dddddddd`, 2 words, R329. -/
  | tst1LongDirect (v : Word) (d : BitVec 8)
  /-- cmpv ALB ##long,(rN): `10001100111mmnnn`, 2 words, R327. -/
  | cmpvInd (v : Word) (n : RN) (m : PostMod)
  /-- cmpv ALB ##long,register: `10001101111rrrrr`, 2 words, R327. -/
  | cmpvReg (v : Word) (r : Reg)
  /-- cmpv ALB ##long,direct: `11101101dddddddd`, 2 words, R327. -/
  | cmpvDirect (v : Word) (d : BitVec 8)
  /-- subv ALB ##long,(rN): `10001110111mmnnn`, 2 words, R326. -/
  | subvInd (v : Word) (n : RN) (m : PostMod)
  /-- subv ALB ##long,register: `10001111111rrrrr`, 2 words, R326. -/
  | subvReg (v : Word) (r : Reg)
  /-- subv ALB ##long,direct: `11101111dddddddd`, 2 words, R326. -/
  | subvDirect (v : Word) (d : BitVec 8)
  /-- maxd aX,(r0),ge|gt: `100000fA011mm000`, 1 word, R233. -/
  | maxd (a : AccA) (strict : Bool) (m : PostMod)
  /-- max aX,(r0),ge|gt: `100001fA011mm000`, 1 word, R232. -/
  | max (a : AccA) (strict : Bool) (m : PostMod)
  /-- min aX,(r0),le|lt: `100010fA011mm000`, 1 word, R234. -/
  | min (a : AccA) (strict : Bool) (m : PostMod)
  /-- lim aX[,aX]: `0100100111ST0000`, 1 word, R215. -/
  | lim (src : AccA) (dst : AccA)
  /-- mpy MUL y,(rN): `1000A000001mmnnn`, 1 word, R292. -/
  | mpyInd (n : RN) (m : PostMod)
  /-- mpy MUL y,register: `1000A000010rrrrr`, 1 word, R292. -/
  | mpyReg (r : Reg)
  /-- mpy MUL (rJ),(rI): `1101A0000jjiiwqq`, 1 word, R292. -/
  | mpyDual (j : RJ) (mj : PostMod) (i : RI) (mi : PostMod)
  /-- mpy MUL (rN),##long: `1000A000000mmnnn`, 2 words, R292. -/
  | mpyLong (n : RN) (m : PostMod) (v : Word)
  /-- mpysu MUL y,(rN): `1000A001001mmnnn`, 1 word, R294. -/
  | mpysuInd (n : RN) (m : PostMod)
  /-- mpysu MUL y,register: `1000A001010rrrrr`, 1 word, R294. -/
  | mpysuReg (r : Reg)
  /-- mpysu MUL (rJ),(rI): `1101A0010jjiiwqq`, 1 word, R294. -/
  | mpysuDual (j : RJ) (mj : PostMod) (i : RI) (mi : PostMod)
  /-- mpysu MUL (rN),##long: `1000A001000mmnnn`, 2 words, R294. -/
  | mpysuLong (n : RN) (m : PostMod) (v : Word)
  /-- mac MUL y,(rN): `1000A010001mmnnn`, 1 word, R295. -/
  | macInd (a : AccA) (n : RN) (m : PostMod)
  /-- mac MUL y,register: `1000A010010rrrrr`, 1 word, R295. -/
  | macReg (a : AccA) (r : Reg)
  /-- mac MUL (rJ),(rI): `1101A0100jjiiwqq`, 1 word, R295. -/
  | macDual (a : AccA) (j : RJ) (mj : PostMod) (i : RI) (mi : PostMod)
  /-- mac MUL (rN),##long: `1000A010000mmnnn`, 2 words, R295. -/
  | macLong (a : AccA) (n : RN) (m : PostMod) (v : Word)
  /-- macus MUL y,(rN): `1000A011001mmnnn`, 1 word, R297. -/
  | macusInd (a : AccA) (n : RN) (m : PostMod)
  /-- macus MUL y,register: `1000A011010rrrrr`, 1 word, R297. -/
  | macusReg (a : AccA) (r : Reg)
  /-- macus MUL (rJ),(rI): `1101A0110jjiiwqq`, 1 word, R297. -/
  | macusDual (a : AccA) (j : RJ) (mj : PostMod) (i : RI) (mi : PostMod)
  /-- macus MUL (rN),##long: `1000A011000mmnnn`, 2 words, R297. -/
  | macusLong (a : AccA) (n : RN) (m : PostMod) (v : Word)
  /-- maa MUL y,(rN): `1000A100001mmnnn`, 1 word, R299. -/
  | maaInd (a : AccA) (n : RN) (m : PostMod)
  /-- maa MUL y,register: `1000A100010rrrrr`, 1 word, R299. -/
  | maaReg (a : AccA) (r : Reg)
  /-- maa MUL (rJ),(rI): `1101A1000jjiiwqq`, 1 word, R299. -/
  | maaDual (a : AccA) (j : RJ) (mj : PostMod) (i : RI) (mi : PostMod)
  /-- maa MUL (rN),##long: `1000A100000mmnnn`, 2 words, R299. -/
  | maaLong (a : AccA) (n : RN) (m : PostMod) (v : Word)
  /-- macuu MUL y,(rN): `1000A101001mmnnn`, 1 word, R298. -/
  | macuuInd (a : AccA) (n : RN) (m : PostMod)
  /-- macuu MUL y,register: `1000A101010rrrrr`, 1 word, R298. -/
  | macuuReg (a : AccA) (r : Reg)
  /-- macuu MUL (rJ),(rI): `1101A1010jjiiwqq`, 1 word, R298. -/
  | macuuDual (a : AccA) (j : RJ) (mj : PostMod) (i : RI) (mi : PostMod)
  /-- macuu MUL (rN),##long: `1000A101000mmnnn`, 2 words, R298. -/
  | macuuLong (a : AccA) (n : RN) (m : PostMod) (v : Word)
  /-- macsu MUL y,(rN): `1000A110001mmnnn`, 1 word, R296. -/
  | macsuInd (a : AccA) (n : RN) (m : PostMod)
  /-- macsu MUL y,register: `1000A110010rrrrr`, 1 word, R296. -/
  | macsuReg (a : AccA) (r : Reg)
  /-- macsu MUL (rJ),(rI): `1101A1100jjiiwqq`, 1 word, R296. -/
  | macsuDual (a : AccA) (j : RJ) (mj : PostMod) (i : RI) (mi : PostMod)
  /-- macsu MUL (rN),##long: `1000A110000mmnnn`, 2 words, R296. -/
  | macsuLong (a : AccA) (n : RN) (m : PostMod) (v : Word)
  /-- maasu MUL y,(rN): `1000A111001mmnnn`, 1 word, R300. -/
  | maasuInd (a : AccA) (n : RN) (m : PostMod)
  /-- maasu MUL y,register: `1000A111010rrrrr`, 1 word, R300. -/
  | maasuReg (a : AccA) (r : Reg)
  /-- maasu MUL (rJ),(rI): `1101A1110jjiiwqq`, 1 word, R300. -/
  | maasuDual (a : AccA) (j : RJ) (mj : PostMod) (i : RI) (mi : PostMod)
  /-- maasu MUL (rN),##long: `1000A111000mmnnn`, 2 words, R300. -/
  | maasuLong (a : AccA) (n : RN) (m : PostMod) (v : Word)
  /-- mpy MUL y,direct: `1110A000dddddddd`, 1 word, R292. -/
  | mpyDirect (d : BitVec 8)
  /-- mac MUL y,direct: `1110A010dddddddd`, 1 word, R295. -/
  | macDirect (a : AccA) (d : BitVec 8)
  /-- maa MUL y,direct: `1110A100dddddddd`, 1 word, R299. -/
  | maaDirect (a : AccA) (d : BitVec 8)
  /-- macsu MUL y,direct: `1110A110dddddddd`, 1 word, R296. -/
  | macsuDirect (a : AccA) (d : BitVec 8)
  /-- mpyi y,#short: `00001000vvvvvvvv`, 1 word, R293. -/
  | mpyi (v : BitVec 8)
  /-- msu (rN),##long,aX: `1001000A110mmnnn`, 2 words, R301. -/
  | msuLong (a : AccA) (n : RN) (m : PostMod) (v : Word)
  /-- msu (rJ),(rI),aX: `1101000A1jjiiwqq`, 1 word, R301. -/
  | msuDual (a : AccA) (j : RJ) (mj : PostMod) (i : RI) (mi : PostMod)
  /-- tstb (rN),#bit: `1001bbbb001mmnnn`, 1 word, R330. -/
  | tstbInd (n : RN) (m : PostMod) (k : BitVec 4)
  /-- tstb register,#bit: `1001bbbb000rrrrr`, 1 word, R330. -/
  | tstbReg (r : Reg) (k : BitVec 4)
  /-- tstb direct,#bit: `1111bbbbdddddddd`, 1 word, R330. -/
  | tstbDirect (d : BitVec 8) (k : BitVec 4)
  /-- shfc ab,ab,cond: `1101ss101DD0cccc`, 1 word, R270. -/
  | shfc (src : Acc) (dst : Acc) (cc : Cond)
  /-- shfi ab,ab,#imm6: `1001ss1DD1vvvvvv`, 1 word, R271. -/
  | shfi (src : Acc) (dst : Acc) (v : BitVec 6)
  /-- exp (rN),aX: `1001100A010mmnnn`, 1 word, R275.
      exp (rN),sv: `10011100010mmnnn`, 1 word, R275. -/
  | expInd (n : RN) (m : PostMod) (dst : Option AccA)
  /-- exp register,aX: `1001000A010rrrrr`, 1 word, R275.
      exp register,sv: `10010100010rrrrr`, 1 word, R275. -/
  | expReg (r : Reg) (dst : Option AccA)
  /-- exp bX,aX: `1001000A0110000B`, 1 word, R275.
      exp bX,sv: `100101000110000B`, 1 word, R275. -/
  | expAcc (b : AccB) (dst : Option AccA)
  /-- mov register,register: `010110RRRRRrrrrr`, 1 word, R341. -/
  | movRegReg (src : Reg) (dst : Reg)
  /-- mov ab,ab: `1101ss101DD10000`, 1 word, R342. -/
  | movAccAcc (src : Acc) (dst : Acc)
  /-- mov aXl|bXl,dvm: `1101ss1010011000`, 1 word, R360. -/
  | movAccDvm (src : Acc)
  /-- mov aXl|bXl,x: `1101ss1011011000`, 1 word, R362. -/
  | movAccX (src : Acc)
  /-- mov register,bX: `0101111011Brrrrr`, 1 word, R343. -/
  | movRegB (r : Reg) (b : AccB)
  /-- mov register,mixp: `01011110100rrrrr`, 1 word, R348. -/
  | movRegMixp (r : Reg)
  /-- mov register,(rN): `000110rrrrrmmnnn`, 1 word, R344. -/
  | movRegInd (r : Reg) (n : RN) (m : PostMod)
  /-- mov mixp,register: `01000111110rrrrr`, 1 word, R347. -/
  | movMixpReg (r : Reg)
  /-- mov repc,ab: `110101001DD10000`, 1 word, R364.
      mov dvm,ab: `110101001DD10001`, 1 word, R361.
      mov x,ab: `110101001DD10011`, 1 word, R363. -/
  | movSpecAcc (src : SpecReg) (acc : Acc)
  /-- mov icr,ab: `110101001DD10010`, 1 word, R367. -/
  | movIcrAcc (acc : Acc)
  /-- mov (rN),register: `000111rrrrrmmnnn`, 1 word, R345. -/
  | movIndReg (n : RN) (m : PostMod) (r : Reg)
  /-- mov (rN),bX: `1001100B110mmnnn`, 1 word, R346. -/
  | movIndB (n : RN) (m : PostMod) (b : AccB)
  /-- mov (sp),register: `01000111111rrrrr`, 1 word, R349. -/
  | movSpReg (r : Reg)
  /-- mov rN*,direct: `0010nnn0dddddddd`, 1 word, R350. -/
  | movRnDirect (n : RNStar) (d : BitVec 8)
  /-- mov aXl|aXh|bXl|bXh,direct: `0011LLL0dddddddd`, 1 word, R351. -/
  | movHalfDirect (acc : Acc) (h : Half) (d : BitVec 8)
  /-- mov direct,rN*: `011nnn00dddddddd`, 1 word, R353. -/
  | movDirectRn (d : BitVec 8) (n : RNStar)
  /-- mov direct,ab: `011DD001dddddddd`, 1 word, R354. -/
  | movDirectAcc (d : BitVec 8) (acc : Acc)
  /-- mov direct,aXl|aXh|bXl|bXh: `011LLL10dddddddd`, 1 word, R355. -/
  | movDirectHalf (d : BitVec 8) (acc : Acc) (h : Half)
  /-- mov direct,aXh,eu: `011A0101dddddddd`, 1 word, R356. -/
  | movDirectHighEu (d : BitVec 8) (a : AccA)
  /-- mov direct,sv: `01101101dddddddd`, 1 word, R357. -/
  | movDirectSv (d : BitVec 8)
  /-- mov sv,direct: `01111101dddddddd`, 1 word, R352. -/
  | movSvDirect (d : BitVec 8)
  /-- mov [##direct],aX: `1101010A101110..`, 2 words, R358. -/
  | movLongDirectA (addr : Word) (a : AccA)
  /-- mov aXl,[##direct]: `1101010A101111..`, 2 words, R359. -/
  | movALongDirect (a : AccA) (addr : Word)
  /-- mov ##long,register: `0101111.000rrrrr`, 2 words, R368. -/
  | movLongReg (v : Word) (r : Reg)
  /-- mov ##long,bX: `0101111B001.....`, 2 words, R369. -/
  | movLongB (v : Word) (b : AccB)
  /-- mov #short,aXl: `001A0001vvvvvvvv`, 1 word, R370.
      mov #short,aXh: `001A0101vvvvvvvv`, 1 word, R371. -/
  | movShortHalf (v : BitVec 8) (a : AccA) (h : Half)
  /-- mov #short,rN*: `001nnn11vvvvvvvv`, 1 word, R372. -/
  | movShortRn (v : BitVec 8) (n : RNStar)
  /-- mov #short,extX: `001e1g01vvvvvvvv`, 1 word, R373. -/
  | movShortExt (v : BitVec 8) (k : BitVec 2)
  /-- mov #short,sv: `00000101vvvvvvvv`, 1 word, R374. -/
  | movShortSv (v : BitVec 8)
  /-- mov register,icr: `0100111111.rrrrr`, 1 word, R365. -/
  | movRegIcr (r : Reg)
  /-- mov #imm5,icr: `0100111110.vvvvv`, 1 word, R366. -/
  | movShortIcr (v : BitVec 5)
  /-- mov (rb+#offset7),aX: `1101100A1ooooooo`, 1 word, R378. -/
  | movRbShortA (o : BitVec 7) (a : AccA)
  /-- mov aXl,(rb+#offset7): `1101110A1ooooooo`, 1 word, R379. -/
  | movARbShort (a : AccA) (o : BitVec 7)
  /-- mov (rb+##offset),aX: `1101010A100110..`, 2 words, R380. -/
  | movRbLongA (o : Word) (a : AccA)
  /-- mov aXl,(rb+##offset): `1101010A100111..`, 2 words, R381. -/
  | movARbLong (a : AccA) (o : Word)
  /-- movp (aXl),register: `0000000001Arrrrr`, 1 word, R375. -/
  | movpAccReg (a : AccA) (r : Reg)
  /-- movp (rN),(rI): `0000011iiqqmmnnn`, 1 word, R376. -/
  | movpIndInd (n : RN) (m : PostMod) (i : RI) (mi : PostMod)
  /-- movs register,ab: `000000010DDrrrrr`, 1 word, R272. -/
  | movsReg (r : Reg) (acc : Acc)
  /-- movs (rN),ab: `000000011DDmmnnn`, 1 word, R272. -/
  | movsInd (n : RN) (m : PostMod) (acc : Acc)
  /-- movs direct,ab: `011DD011dddddddd`, 1 word, R272. -/
  | movsDirect (d : BitVec 8) (acc : Acc)
  /-- movsi rN*,ab,#imm5: `0100nnn01DDvvvvv`, 1 word, R273. -/
  | movsi (n : RNStar) (acc : Acc) (v : BitVec 5)
  /-- movr register,aX: `1001110A110rrrrr`, 1 word, R382. -/
  | movrReg (r : Reg) (a : AccA)
  /-- movr (rN),aX: `1001110A111mmnnn`, 1 word, R382. -/
  | movrInd (n : RN) (m : PostMod) (a : AccA)
  /-- push register: `01011110010rrrrr`, 1 word, R388. -/
  | pushReg (r : Reg)
  /-- push ##long: `0101111101......`, 2 words, R389. -/
  | pushLong (v : Word)
  /-- pop register: `01011110011rrrrr`, 1 word, R390. -/
  | pop (r : Reg)
  /-- swap option: `0100100110..pppp`, 1 word, R391. -/
  | swap (opt : SwapOpt)
  /-- banke list: `010010111...kkkk`, 1 word, R383. -/
  | banke (k : BitVec 4)
  /-- movd (rI),(rJ): `010111111jjiiwqq`, 1 word, R377. -/
  | movd (i : RI) (mi : PostMod) (j : RJ) (mj : PostMod)
  /-- rep register: `00001101...rrrrr`, 1 word, R420. -/
  | repReg (r : Reg)
  /-- rep #short: `00001100vvvvvvvv`, 1 word, R420. -/
  | repShort (v : BitVec 8)
  /-- bkrep #short,address: `01011100vvvvvvvv`, 2 words, R422. -/
  | bkrepShort (v : BitVec 8) (addr : Word)
  /-- bkrep register,address: `01011101000rrrrr`, 2 words, R422. -/
  | bkrepReg (r : Reg) (addr : Word)
  /-- br address,cond: `010000011000cccc`, 2 words, R401. -/
  | br (addr : Word) (cc : Cond)
  /-- brr offset,cond: `01010ooooooocccc`, 1 word, R402. -/
  | brr (o : BitVec 7) (cc : Cond)
  /-- call address,cond: `010000011100cccc`, 2 words, R403. -/
  | call (addr : Word) (cc : Cond)
  /-- callr offset,cond: `00010ooooooocccc`, 1 word, R406. -/
  | callr (o : BitVec 7) (cc : Cond)
  /-- calla aX: `1101010A10000000`, 1 word, R404. -/
  | calla (a : AccA)
  /-- ret cond: `010001011000cccc`, 1 word, R410. -/
  | ret (cc : Cond)
  /-- reti cond[,context]: `01000101110fcccc`, 1 word, R412. -/
  | reti (cc : Cond) (ctx : Bool)
  /-- cntx s|r: `11010011100f0000`, 1 word, R434. -/
  | cntx (restore : Bool)
  /-- rets #short: `00001001vvvvvvvv`, 1 word, R411. -/
  | rets (v : BitVec 8)
  /-- modr (rN)[,dmod]: `0000000010fmmnnn`, 1 word, R392. -/
  | modr (n : RN) (m : PostMod) (dmod : Bool)
  /-- load #imm8,page: `00000100vvvvvvvv`, 1 word, R384. -/
  | loadPage (v : BitVec 8)
  /-- load #imm9,modi|modj: `0000x01vvvvvvvvv`, 1 word, R385. -/
  | loadMod (j : Bool) (v : BitVec 9)
  /-- load #imm7,stepi|stepj: `11011x111vvvvvvv`, 1 word, R386. -/
  | loadStep (j : Bool) (v : BitVec 7)
  /-- load #imm2,ps: `01001101100000vv`, 1 word, R387. -/
  | loadPs (v : BitVec 2)
  /-- break: `1101001111......`, 1 word, R427. -/
  | brk
  /-- retd: `1101011110......`, 1 word, R413. -/
  | retd
  /-- retid: `1101011111000000`, 1 word, R415. -/
  | retid
  /-- nop: `0000000000000000`, 1 word, R430. -/
  | nop
  /-- eint: `0100001110000000`, 1 word, R432. -/
  | eint
  /-- dint: `0100001111000000`, 1 word, R433. -/
  | dint
  /-- trap: `0000000000100000`, 1 word, R431. -/
  | trap
  deriving DecidableEq, Repr

/-- Why a word is not an instruction; all are UNDEFINED(reserved_opcode) of R158, U2. -/
inductive DecodeError where
  /-- No row of the opcode table matches. -/
  | reservedOpcode
  /-- An rN field holds 110 or 111 (R137). -/
  | reservedAddressRegister
  /-- A swap option field holds 1110 or 1111 (R143). -/
  | reservedSwapOption
  deriving DecidableEq, Repr

/-- Why an instruction's operands are not allowed. -/
inductive OperandRule where
  /-- UNDEFINED(excluded_operand): a register the instruction's page excludes (U8). -/
  | excluded
  /-- UNDEFINED(same_acc_src_dst): the source is the destination accumulator or a half of it (R176, U6). -/
  | sameAccumulator
  deriving DecidableEq, Repr

/-- One row of the opcode table: a word `w` is of the row when `w &&& mask = pattern` (R132). `build` reads the
fields of the first word, given the word that follows it. -/
structure OpRow where
  mask : Word
  pattern : Word
  build : Word → Word → Except DecodeError Instr

end Sys2Proof
end

