-- ==== Sys2Proof/Machine/State.lean ====
section
/-! DEFINITION. The state of the DSP subsystem (spec/10_state.md, spec/61_platform_devices.md), as plain data, with
the reasons a step can stop and the state after reset. Fields marked MODEL are the model's own; INVENTORY.md says
what each stands for. -/

namespace Sys2Proof.Machine

/-- The machine stops with a fault, which the parameters UNMAPPED_DATA and UNMAPPED_PROG ask for at their default
`refuse` (D5, D6); the hardware itself raises nothing (R450). -/
inductive Fault where
  /-- A data access to an address with nothing behind it; raised by `unmappedRead` and `unmappedWrite`. Safe. -/
  | unmappedData
  /-- A fetch, movp or movd access to a program address from 0x6000 up; raised by `unmappedRead` and `unmappedWrite`.
  Safe. -/
  | unmappedProg
  deriving DecidableEq, Repr

/-- The order restrictions whose violation is UNDEFINED(sequence_restriction) (U9). -/
inductive SeqRule where
  /-- Index addressing right after a write of rb (R565). -/
  | rbThenIndex
  /-- A jump by a write of pc that is not followed by its nops (R566). -/
  | pcWithoutNops
  /-- mixp read right after max, maxd or min (R567). -/
  | mixpAfterMax
  /-- sv used right after exp, other than by shfc or movs (R568). -/
  | svAfterExp
  /-- push right after a write of sp (R569). -/
  | pushAfterSp
  /-- bkrep right after a write of icr (R570). -/
  | bkrepAfterIcr
  /-- An instruction that may not be repeated (R421). -/
  | notRepeatable
  /-- An instruction at a forbidden address of a block-repeat body (R425). -/
  | blockPlacement
  /-- A block repeat of one word, of a fifth level, with the last address of an enclosing one, or nested with
  operand lc (R422, R425). -/
  | blockShape
  /-- An instruction that may not follow retd or retid, or that does not fit the two cycles (R414). -/
  | delaySlot
  /-- trap inside the TRAP/BI service routine (R467). -/
  | trapInTrap
  deriving DecidableEq, Repr

/-- A word or a situation to which the spec gives no meaning. -/
inductive Refusal where
  /-- An instruction that has no meaning in the model yet; raised by `exec`. Safe. -/
  | notModelled (mnemonic : String)
  /-- UNDEFINED(reserved_opcode) (U2); raised by `step`. Safe. -/
  | reserved (e : DecodeError)
  /-- UNDEFINED(excluded_operand) (U8); raised by the meaning. Safe. -/
  | excludedOperand
  /-- UNDEFINED(same_acc_src_dst) (U6); raised by the meaning. Safe. -/
  | sameAccumulator
  /-- UNDEFINED(sequence_restriction) (U9); raised by `step`, and by trap and bkrep. Safe. -/
  | sequence (r : SeqRule)
  /-- UNDEFINED(movd_near_pc) (U14); raised by movd and by the fetch. Safe. -/
  | movdNearPc
  /-- UNDEFINED(short_reset) (U13); raised by the host event. Safe. -/
  | shortReset
  deriving DecidableEq, Repr

/-- What the machine enters a service routine for (R451). RESET is an agent event; NMI never occurs (D9). -/
inductive Event where
  /-- The trap instruction or the breakpoint interrupt BI. -/
  | trapBi
  | int0
  | int1
  | int2
  deriving DecidableEq, Repr

/-- What is behind a data address (R83, R500). -/
inductive DataRegion where
  | ram
  | mailbox
  | semaphore
  | codec
  | ocem
  | unmapped
  deriving DecidableEq, Repr

/-- One memory space: (key, byte) pairs, keys strictly rising, no zero byte. Word address `a` has its low byte at
key 2a and its high byte at key 2a + 1 (log 3). -/
abbrev Mem := List Host.Cell

/-- The flags of st0 (R37 to R44). -/
structure Flags where
  z : Bool
  m : Bool
  n : Bool
  v : Bool
  c : Bool
  e : Bool
  l : Bool
  r : Bool
  deriving DecidableEq, Repr

/-- The 16-, 32- and 36-bit registers (R20 to R34, R66). -/
structure Regs where
  a0 : Acc36
  a1 : Acc36
  b0 : Acc36
  b1 : Acc36
  x : Word
  y : Word
  p : BitVec 32
  /-- p holds an unsigned product (R24). -/
  pUnsigned : Bool
  sv : Word
  r0 : Word
  r1 : Word
  r2 : Word
  r3 : Word
  r4 : Word
  r5 : Word
  rb : Word
  sp : Word
  cfgi : Word
  cfgj : Word
  mixp : Word
  r0b : Word
  r1b : Word
  r4b : Word
  cfgib : Word
  dvm : Word
  lc : Word
  repc : Word
  deriving DecidableEq, Repr

/-- The fields of st0, st1, st2 and icr that are not flags, counters or inputs (R45 to R60, R65). -/
structure Modes where
  im0 : Bool
  im1 : Bool
  im2 : Bool
  ie : Bool
  sat : Bool
  ps : BitVec 2
  page : BitVec 8
  ou0 : Bool
  ou1 : Bool
  /-- st2.S: logical shifts (R58). -/
  s : Bool
  /-- st2.M5 to M0 (R60). -/
  mEn : BitVec 6
  nmic : Bool
  ic0 : Bool
  ic1 : Bool
  ic2 : Bool
  deriving DecidableEq, Repr

/-- The context-switching storage (R68, R69). -/
structure Shadow where
  /-- st0[11:2]: Z M N V C E L R IM1 IM0. -/
  st0 : BitVec 10
  /-- st0[0]. -/
  sat : Bool
  /-- st1[11:10]. -/
  ps : BitVec 2
  /-- st2[7:0]. -/
  st2 : BitVec 8
  pageAlt : BitVec 8
  deriving DecidableEq, Repr

/-- A saved block-repeat level (R35). -/
structure BkFrame where
  first : Word
  last : Word
  lc : Word
  deriving DecidableEq, Repr

/-- Loop, return and trap state (R35, R63, R64, R72, R73). -/
structure Control where
  /-- icr.BC. -/
  bc : BitVec 3
  /-- icr.LP. -/
  lp : Bool
  bkStart : Word
  bkEnd : Word
  /-- bk_saved, the innermost enclosing level first. -/
  bkSaved : List BkFrame
  /-- MODEL: LP is to be cleared after the next loop-end test of the level with this BC (R426). -/
  lpClear : Option (BitVec 3)
  repActive : Bool
  repAddr : Word
  repSaved : Word
  repSuspended : Bool
  /-- MODEL: the address of the suspended repeat (R420). -/
  repSavedAddr : Word
  /-- MODEL: the next repetition is the first after a return (R464). -/
  repResumed : Bool
  delayTarget : Word
  delayCount : Nat
  /-- MODEL: the address of the pending retd or retid, none when it ran inside the TRAP/BI routine (R514). -/
  delayFrom : Option Word
  inTrap : Bool
  /-- MODEL: the next instruction is the first after a TRAP/BI return (R464, R512). -/
  trapRet : Bool
  /-- MODEL: the same, once the pending retid completes. -/
  trapRetLater : Bool
  /-- MODEL: MODE0.SSE was set at that return (R512). -/
  stepArmed : Bool
  deriving DecidableEq, Repr

/-- MODEL: what earlier instructions leave for the interrupt and order rules (R107, R462, R464, R565 to R571). -/
structure Timing where
  /-- IC2, IC1, IC0 as the next interrupt entry sees them (R571). -/
  icPrev : BitVec 3
  /-- Instructions fetched since reset, up to 3 (R462). -/
  fetches : Nat
  /-- Cycles for which INT0 and INT1 are held off (R464). -/
  delay01 : Nat
  /-- Cycles for which INT2 is held off. -/
  delay2 : Nat
  /-- Cycles for which BI is held off. -/
  delayBi : Nat
  /-- The last instruction modified rb, other than by mov ##long, rb (R565). -/
  hazRb : Bool
  /-- The last instruction had sp as its destination (R569). -/
  hazSp : Bool
  /-- The last instruction was exp (R568). -/
  hazExp : Bool
  /-- The last instruction was max, maxd or min (R567). -/
  hazMixp : Bool
  /-- The last instruction was mov to icr (R570). -/
  hazIcr : Bool
  /-- Targets of recent movd, each with the number of instructions it is still near (R107). -/
  movdRecent : List (Word × Nat)
  /-- Address of the last executed instruction (R514). -/
  lastAddr : Word
  deriving DecidableEq, Repr

/-- One stage of the program flow trace buffer (R514). -/
structure TraceEntry where
  tag : Bool
  addr : Word
  deriving DecidableEq, Repr

/-- The on-chip emulation module (R502 to R515). -/
structure Ocem where
  /-- STATUS0; bits 10 to 8 are reserved. -/
  status0 : Word
  dbg : Bool
  boot : Bool
  err : Bool
  mvd : Bool
  mode0 : Word
  dabp : Word
  dam : Word
  pabc1 : BitVec 6
  pabc2 : BitVec 6
  pabc3 : BitVec 6
  pabp1 : Word
  pabp2 : Word
  pabp3 : Word
  /-- The sixteen trace stages, the one PFT presents first. -/
  trace : List TraceEntry
  /-- The BI request. -/
  biReq : Bool
  /-- MODEL: instructions still to run before a data breakpoint requests BI, 0 for none (R511). -/
  biData : Nat
  deriving DecidableEq, Repr

/-- The dual-port mailbox but for its RAM, one bit for each mailbox (R520, R525, R526). -/
structure Dpmb where
  sem : BitVec 8
  ois : BitVec 8
  ais : BitVec 8
  ato : BitVec 8
  aie : BitVec 8
  oie : BitVec 8
  config : BitVec 2
  deriving DecidableEq, Repr

/-- The codec interface (R531 to R541). A FIFO entry is 32 bits; with DWS = 0 its low 16 bits count. -/
structure Codec where
  /-- CODCNT; bits 15 and 14 are reserved. -/
  cnt : Word
  frm : Word
  sck : Word
  /-- CODSTS: ROV TOV RXW RXF RXE TXF TXE. -/
  sts : BitVec 7
  txFifo : List (BitVec 32)
  /-- The first half of a 32-bit entry that is being written. -/
  txHalf : Option Word
  rxFifo : List (BitVec 32)
  /-- The half of a 32-bit entry that is still to be read. -/
  rxHalf : Option Word
  deriving DecidableEq, Repr

/-- An access to a port ext0 to ext3 (D4). -/
inductive ExtAccess where
  | read (k : BitVec 2)
  | write (k : BitVec 2) (v : Word)
  deriving DecidableEq, Repr

/-- What the ARM sees of an access of its own to the mailbox (R528). -/
inductive ArmAccess where
  | half (offset : BitVec 10) (v : Word)
  | word (offset : BitVec 10) (v : BitVec 32)
  /-- The data abort of an access that is not aligned or not a half-word or word. -/
  | abort (offset : BitVec 10)
  deriving DecidableEq, Repr

/-- An action of another agent, between two steps of the core (R501, R541, R545, R585). -/
inductive AgentEvent where
  /-- The ARM writes a half-word at a byte offset of the mailbox (R528). -/
  | armWriteHalf (offset : BitVec 10) (v : Word)
  /-- The ARM writes a word at a byte offset of the mailbox (R528). -/
  | armWriteWord (offset : BitVec 10) (v : BitVec 32)
  /-- The ARM reads a half-word at a byte offset of the mailbox (R528). -/
  | armReadHalf (offset : BitVec 10)
  /-- The ARM reads a word at a byte offset of the mailbox (R528). -/
  | armReadWord (offset : BitVec 10)
  /-- The ARM makes a byte access at a byte offset of the mailbox (R528). -/
  | armByteAccess (offset : BitVec 10)
  /-- The host holds the DSP in reset for `cycles` cycles, writes the listed program words, and releases it. -/
  | hostReset (cycles : Nat) (image : List (Word × Word))
  /-- The codec delivers a received word (R541 a). -/
  | codecDeliver (w : BitVec 32)
  /-- The codec takes a word to transmit (R541 b). -/
  | codecTake
  /-- The pin IUSER0 changes. -/
  | pin0 (b : Bool)
  /-- The pin IUSER1 changes. -/
  | pin1 (b : Bool)
  deriving DecidableEq, Repr

/-- The state of the DSP subsystem. -/
structure State where
  regs : Regs
  /-- The program counter (R32). -/
  pc : Word
  fl : Flags
  md : Modes
  shadow : Shadow
  ctl : Control
  /-- Program memory (R81). -/
  prog : Mem
  /-- Data memory, the mailbox RAM at its Oak addresses included (R83, R520). -/
  data : Mem
  dpmb : Dpmb
  codec : Codec
  ocem : Ocem
  /-- The pins IUSER0 and IUSER1 (R56). -/
  iuser0 : Bool
  iuser1 : Bool
  /-- MODEL. -/
  tm : Timing
  /-- MODEL: the argument of the next free value (log 6). -/
  freeCount : Nat
  /-- MODEL: the accesses to ext0 to ext3, oldest first (D4). -/
  extLog : List ExtAccess
  /-- MODEL: the words the ARM has read from the mailbox and the aborts it has got, oldest first (log 38). -/
  armLog : List ArmAccess
  /-- MODEL: what the other agents do before each of the next steps (log 17). -/
  inputs : List (List AgentEvent)
  deriving DecidableEq, Repr

/-- The registers after reset. The spec gives a value for none of them but pUnsigned (R75, D14): zero is a
DESIGN CHOICE, log 1, unsafe. -/
def Regs.reset : Regs where
  a0 := 0
  a1 := 0
  b0 := 0
  b1 := 0
  x := 0
  y := 0
  p := 0
  pUnsigned := false
  sv := 0
  r0 := 0
  r1 := 0
  r2 := 0
  r3 := 0
  r4 := 0
  r5 := 0
  rb := 0
  sp := 0
  cfgi := 0
  cfgj := 0
  mixp := 0
  r0b := 0
  r1b := 0
  r4b := 0
  cfgib := 0
  dvm := 0
  lc := 0
  repc := 0

/-- "cleared during processor reset" (R37 to R44); V by D1. -/
def Flags.reset : Flags := ⟨false, false, false, false, false, false, false, false⟩

/-- R75; `page` is a DESIGN CHOICE, log 1, unsafe. -/
def Modes.reset : Modes where
  im0 := false
  im1 := false
  im2 := false
  ie := false
  sat := false
  ps := 0
  page := 0
  ou0 := false
  ou1 := false
  s := false
  mEn := 0
  nmic := false
  ic0 := false
  ic1 := false
  ic2 := false

/-- No reset value in the spec (R68, R69): DESIGN CHOICE, log 1, unsafe. -/
def Shadow.reset : Shadow := ⟨0, false, 0, 0, 0⟩

/-- No loop, repeat, delayed return or trap (R73, R75); the addresses, and the saved count rep_saved, are a DESIGN CHOICE,
log 1, unsafe. -/
def Control.reset : Control where
  bc := 0
  lp := false
  bkStart := 0
  bkEnd := 0
  bkSaved := []
  lpClear := none
  repActive := false
  repAddr := 0
  repSaved := 0
  repSuspended := false
  repSavedAddr := 0
  repResumed := false
  delayTarget := 0
  delayCount := 0
  delayFrom := none
  inTrap := false
  trapRet := false
  trapRetLater := false
  stepArmed := false

/-- Nothing has run. -/
def Timing.reset : Timing where
  icPrev := 0
  fetches := 0
  delay01 := 0
  delay2 := 0
  delayBi := 0
  hazRb := false
  hazSp := false
  hazExp := false
  hazMixp := false
  hazIcr := false
  movdRecent := []
  lastAddr := 0

/-- STATUS0, MODE0 and MVD are 0 (R502, R505, R555); DBG and BOOT are inputs; the rest is a DESIGN CHOICE, log 1,
unsafe. -/
def Ocem.reset : Ocem where
  status0 := 0
  dbg := Config.ocemDbg
  boot := Config.ocemBoot
  err := false
  mvd := false
  mode0 := 0
  dabp := 0
  dam := 0
  pabc1 := 0
  pabc2 := 0
  pabc3 := 0
  pabp1 := 0
  pabp2 := 0
  pabp3 := 0
  trace := List.replicate 16 ⟨true, 0xFFFF⟩
  biReq := false
  biData := 0

/-- All zero (R524, D28). -/
def Dpmb.reset : Dpmb := ⟨0, 0, 0, 0, 0, 0, 0⟩

/-- Table 12 of the source (R531, R555); the transmit FIFO is empty (R535). DESIGN CHOICE, log 40, unsafe: the receive
FIFO is empty too, and no half of a 32-bit entry waits on either side. -/
def Codec.reset : Codec where
  cnt := 0x0800
  frm := 0x0096
  sck := 0x401F
  sts := 0
  txFifo := []
  txHalf := none
  rxFifo := []
  rxHalf := none

/-- The machine right after reset (R75, R552, R555), with nothing listed in memory and no agent event to come. -/
def State.reset : State where
  regs := Regs.reset
  pc := 0
  fl := Flags.reset
  md := Modes.reset
  shadow := Shadow.reset
  ctl := Control.reset
  prog := []
  data := []
  dpmb := Dpmb.reset
  codec := Codec.reset
  ocem := Ocem.reset
  iuser0 := false
  iuser1 := false
  tm := Timing.reset
  freeCount := 0
  extLog := []
  armLog := []
  inputs := []

end Sys2Proof.Machine
end

