-- ==== Sys2Proof/Machine/Memory.lean ====
section
/-! DEFINITION. Byte and word access to a memory space in canonical form. -/

namespace Sys2Proof.Machine

/-- What an address nothing has written reads as: 0. DESIGN CHOICE, log 2, unsafe (the spec: any value, U1). -/
def memUnlisted : BitVec 8 := 0

/-- The byte at a key. -/
def memByte : Mem → Nat → BitVec 8
  | [], _ => memUnlisted
  | (j, b) :: t, k => if j = k then b else memByte t k

/-- Writes the byte at a key; a byte equal to what an unlisted key reads as is not listed. -/
def memSetByte : Mem → Nat → BitVec 8 → Mem
  | [], k, b => if b = memUnlisted then [] else [(k, b)]
  | (j, c) :: t, k, b =>
    if k < j then (if b = memUnlisted then (j, c) :: t else (k, b) :: (j, c) :: t)
    else if k = j then (if b = memUnlisted then t else (k, b) :: t)
    else (j, c) :: memSetByte t k b

/-- The canonical form: keys strictly rising, no listed byte equal to the unlisted one. -/
def Memory.wf : Mem → Bool
  | [] => true
  | (k, b) :: t =>
    b != memUnlisted && (match t with
      | [] => true
      | (j, _) :: _ => decide (k < j)) && Memory.wf t

/-- The word at a word address (log 3: low byte at the lower key). -/
def memWord (m : Mem) (a : Word) : Word := memByte m (2 * a.toNat + 1) ++ memByte m (2 * a.toNat)

/-- Writes the word at a word address. -/
def memSetWord (m : Mem) (a v : Word) : Mem :=
  memSetByte (memSetByte m (2 * a.toNat) (v.extractLsb' 0 8)) (2 * a.toNat + 1) (v.extractLsb' 8 8)

end Sys2Proof.Machine
end

