-- ==== Sys2Proof/Machine/Devices.lean ====
section
/-! DEFINITION. The devices behind the data space: emulation module, mailbox, codec interface
(spec/61_platform_devices.md), as the core's accesses and the other agents act on them. -/

namespace Sys2Proof.Machine

/-- A word the spec leaves open, and the state with the counter of free values advanced (log 6). -/
def freeRead (s : State) : Word × State := (Config.freeWord s.freeCount, { s with freeCount := s.freeCount + 1 })

/-! ## Emulation module (OCEM) -/

/-- MODE0 bit `k` is set and the core is not in the TRAP/BI routine, where conditions are not acted on (R503). -/
def ocemArmed (k : Nat) (s : State) : Bool := s.ocem.mode0.getLsbD k && !s.ctl.inTrap

/-- Sets STATUS0 bit `k` (R504). -/
def ocemCause (k : Nat) (o : Ocem) : Ocem := { o with status0 := o.status0 ||| (1#16 <<< k) }

/-- Sets STATUS0 bit `k` and requests BI (R503). -/
def ocemBreak (k : Nat) (s : State) : State := { s with ocem := { ocemCause k s.ocem with biReq := true } }

/-- A stage of the trace buffer that has not been used since it was read (R515). -/
def traceUnused : TraceEntry := ⟨true, 0xFFFF⟩

/-- All sixteen stages hold a record (R514). -/
def traceFull (o : Ocem) : Bool := !(o.trace.contains traceUnused)

/-- The stages as a push finds them: the unused ones first, then the records in their order (R514, R515, log 24). They
stand elsewhere only after a reading that took some of the records. -/
def traceSettle (t : List TraceEntry) : List TraceEntry :=
  t.filter (· == traceUnused) ++ t.filter fun e => !(e == traceUnused)

/-- Pushes one stage: the place of an unused stage is taken, and only a full buffer drops its oldest record; TBF and BI
when the buffer becomes full and TBFE is set (R514). DESIGN CHOICE, log 37, unsafe: with TBFE set a push into a buffer
that is full already drops the oldest stage and breaks no more. -/
def tracePush (e : TraceEntry) (s : State) : State :=
  let t : State := { s with ocem := { s.ocem with trace := (traceSettle s.ocem.trace).tail ++ [e] } }
  if s.ocem.mode0.getLsbD 12 && !traceFull s.ocem && traceFull t.ocem then ocemBreak 13 t else t

/-- A one-entry record: the address of the jump (R514, principle 2). -/
def traceOne (src : Word) (s : State) : State := tracePush ⟨true, src⟩ s

/-- A two-entry record: the address of the jump and its target (R514, principles 3 and 4). -/
def traceTwo (src dst : Word) (s : State) : State := tracePush ⟨false, dst⟩ (tracePush ⟨false, src⟩ s)

/-- The address comparator of the data breakpoints (R509, D27). -/
def ocemMatchAddr (o : Ocem) (a : Word) : Bool :=
  ((a ^^^ o.dabp) &&& (if Config.damOneMasks then ~~~o.dam else o.dam)) == 0

/-- An address whose access by user code is an illegal condition: the mailbox or an OCEM register (R506). -/
def ocemIllegalAddr (a : Word) : Bool :=
  (decide (0xE000 ≤ a.toNat) && decide (a.toNat < 0xEC00)) || (decide (0xF7F0 ≤ a.toNat) && decide (a.toNat < 0xF800))

/-- Starts the two-instruction latency of a data breakpoint with cause bit `k` (R511). -/
def ocemDataBreak (k : Nat) (s : State) : State :=
  { s with ocem := { ocemCause k s.ocem with biData := if s.ocem.biData = 0 then 2 else s.ocem.biData } }

/-- The data breakpoints on an access at `a` (R509, R510), judged on the state `b` before the access. `v` is the word on
XDB, which the value match compares with dvm (R66): none for the Y operand of a dual access, which is on YDB (R85, R93,
log 49). `dx` and `vx` are the bits of MODE0 that enable the address and the value match, bit 4 is CDVAE. -/
def ocemDataWatch (b : State) (dx vx : Nat) (a : Word) (v : Option Word) (s : State) : State :=
  let da := b.ocem.mode0.getLsbD dx && ocemMatchAddr b.ocem a
  let dv := b.ocem.mode0.getLsbD vx && v == some b.regs.dvm
  if b.ocem.mode0.getLsbD 4 then (if da && dv then ocemDataBreak 2 s else s)
  else
    let t := if da then ocemDataBreak 1 s else s
    if dv then ocemDataBreak 0 t else t

/-- What the OCEM does on seeing a data access: illegal-access breakpoint (R506) and data breakpoints (R510). `v` is the
word on XDB, if the access puts one there (R66). It judges by the state `b` before the access (log 14); `s` is the state
after it. -/
def ocemWatch (isRead : Bool) (a : Word) (v : Option Word) (b s : State) : State :=
  if b.ctl.inTrap || b.ocem.mode0 == 0 then s
  else
    let t := if b.ocem.mode0.getLsbD 14 && ocemIllegalAddr a then ocemBreak 14 s else s
    if isRead then ocemDataWatch b 3 1 a v t else ocemDataWatch b 2 0 a v t

/-- The external event OCEM_ABORT: STATUS0.ABORT and a BI request (R504, log 39). -/
def ocemExternal (s : State) : State := if Config.ocemAbort && !s.ctl.inTrap then ocemBreak 4 s else s

/-- The OCEM on an external register access: EXTRE is MODE0 bit 6, EXTWE bit 5, the cause EREG (R507). -/
def ocemExtWatch (k : Nat) (s : State) : State := if ocemArmed k s then ocemBreak 3 s else s

/-- STATUS1 (R505): DBG BOOT ERR MVD in bits 15 to 12, TREI in bit 0. -/
def ocemStatus1 (o : Ocem) : Word :=
  BitVec.ofBool o.dbg ++ BitVec.ofBool o.boot ++ BitVec.ofBool o.err ++ BitVec.ofBool o.mvd ++ 0#11 ++
    BitVec.ofBool (o.trace.headD traceUnused).tag

/-- A read of an OCEM register (R502); PFT presents a trace stage and pops it (R515). -/
def ocemRead (a : Word) (s : State) : Word × State :=
  match a.toNat with
  | 0xF7FF => (s.ocem.status0, s)
  | 0xF7FE => (ocemStatus1 s.ocem, s)
  | 0xF7FD => (s.ocem.mode0, s)
  | 0xF7FB => (s.ocem.dabp, s)
  | 0xF7FA => (s.ocem.dam, s)
  | 0xF7F9 => (s.ocem.pabc3.setWidth 16, s)
  | 0xF7F8 => (s.ocem.pabc2.setWidth 16, s)
  | 0xF7F7 => (s.ocem.pabc1.setWidth 16, s)
  | 0xF7F3 => (s.ocem.pabp3, s)
  | 0xF7F2 => (s.ocem.pabp2, s)
  | 0xF7F1 => (s.ocem.pabp1, s)
  | _ => ((s.ocem.trace.headD traceUnused).addr,
      { s with ocem := { s.ocem with trace := s.ocem.trace.tail ++ [traceUnused] } })

/-- The OCEM after a write of one of its registers (R502, D26). PFT is read-only; of STATUS1 only ERR and MVD are
storage (log 24). DESIGN CHOICE, log 36, unsafe: the reserved bits, STATUS0 10 to 8 and PABCx 15 to 6, have no storage,
so that they read 0 and a write to them is dropped. -/
def ocemWrite (a v : Word) (o : Ocem) : Ocem :=
  match a.toNat with
  | 0xF7FF => { o with status0 := v &&& 0xF8FF#16 }
  | 0xF7FE => { o with err := v.getLsbD 13, mvd := v.getLsbD 12 }
  | 0xF7FD => { o with mode0 := v }
  | 0xF7FB => { o with dabp := v }
  | 0xF7FA => { o with dam := v }
  | 0xF7F9 => { o with pabc3 := v.setWidth 6 }
  | 0xF7F8 => { o with pabc2 := v.setWidth 6 }
  | 0xF7F7 => { o with pabc1 := v.setWidth 6 }
  | 0xF7F3 => { o with pabp3 := v }
  | 0xF7F2 => { o with pabp2 := v }
  | 0xF7F1 => { o with pabp1 := v }
  | _ => o

/-! ## Dual-port mailbox (DPMB) -/

/-- The mailbox of a 16-word block of the mailbox RAM in each configuration (R527). -/
def mailboxOf (config : BitVec 2) (block : BitVec 4) : BitVec 3 :=
  let b := block.toNat
  match config.toNat with
  | 0 => block.extractLsb' 1 3
  | 1 => if b < 7 then 0 else if b < 8 then 1 else if b < 9 then 2 else if b < 11 then 3 else if b < 13 then 4
      else if b < 14 then 5 else if b < 15 then 6 else 7
  | 2 => if b < 4 then 0 else if b < 8 then 1 else if b < 10 then 2 else if b < 12 then 3 else if b < 13 then 4
      else if b < 14 then 5 else if b < 15 then 6 else 7
  | _ => Config.mbLayout3 block

/-- The Oak has permission for the mailbox of RAM word `n` (R522): it is the sender and the semaphore is low, or
the recipient and it is high. -/
def oakOwns (d : Dpmb) (n : BitVec 8) : Bool :=
  let k := (mailboxOf d.config (n.extractLsb' 4 4)).toNat
  d.ato.getLsbD k == d.sem.getLsbD k

/-- Bit `k` set to `b`. -/
def setBit8 (v : BitVec 8) (k : Nat) (b : Bool) : BitVec 8 :=
  if b then v ||| (1#8 <<< k) else v &&& ~~~(1#8 <<< k)

/-- DPMBSk as either side reads it: OIS, AIS, Sem (R525). -/
def semRead (d : Dpmb) (k : Nat) : Word :=
  0#13 ++ BitVec.ofBool (d.ois.getLsbD k) ++ BitVec.ofBool (d.ais.getLsbD k) ++ BitVec.ofBool (d.sem.getLsbD k)

/-- Oak Set and Oak Clear (R524, Table 9). -/
def oakSemWrite (k : Nat) (set : Bool) (d : Dpmb) : Dpmb :=
  { d with
    sem := setBit8 d.sem k set
    ois := setBit8 d.ois k false
    ais := if (d.ato.getLsbD k != set) && d.aie.getLsbD k then setBit8 d.ais k true else d.ais }

/-- ARM Set and ARM Clear (R524, Table 9). -/
def armSemWrite (k : Nat) (set : Bool) (d : Dpmb) : Dpmb :=
  { d with
    sem := setBit8 d.sem k set
    ois := if (d.ato.getLsbD k == set) && d.oie.getLsbD k then setBit8 d.ois k true else d.ois
    ais := if set && d.ato.getLsbD k then d.ais else setBit8 d.ais k false }

/-- The low half of DPMBCC: AIE and ATO (R526). -/
def dpmbccLow (v : Word) (d : Dpmb) : Dpmb := { d with aie := v.extractLsb' 8 8, ato := v.extractLsb' 0 8 }

/-- The high half of DPMBCC: RESET, MB_CONFIG, OIE (R526, log 19). -/
def dpmbccHigh (v : Word) (d : Dpmb) : Dpmb :=
  if v.getLsbD 15 then Dpmb.reset else { d with config := v.extractLsb' 13 2, oie := v.extractLsb' 0 8 }

/-- The data address of mailbox RAM word `n`. -/
def mailboxAddr (n : BitVec 8) : Word := 0xE000#16 + n.setWidth 16

/-- DPMBCC as the ARM reads it (R526): 0, MB_CONFIG, 0, OIE, AIE, ATO. RESET reads 0 (log 38). -/
def dpmbccRead (d : Dpmb) : BitVec 32 := 0#1 ++ d.config ++ 0#5 ++ d.oie ++ d.aie ++ d.ato

/-- Records what the ARM sees of its access. -/
def armRecord (e : ArmAccess) (s : State) : State := { s with armLog := s.armLog ++ [e] }

/-- The half-word at an even byte offset of the mailbox, as the ARM reads it (R521, R522, R525, R526): a half of
DPMBSk or DPMBCC, or a word of the mailbox RAM; a free value where the ARM has no permission (U10), and at the
registers ba[5:2] = 9 to 15, of which the spec names none (DESIGN CHOICE, log 34, safe). A read has no other effect.
DESIGN CHOICE, log 45, unsafe: a semaphore or flag that one side changed reads changed on the other side at once, without
the delay that R104 and R529 leave open. -/
def armHalf (offset : BitVec 10) (s : State) : Word × State :=
  if offset.getLsbD 9 then
    let k := (offset.extractLsb' 2 4).toNat
    if k < 8 then (if offset.getLsbD 1 then 0 else semRead s.dpmb k, s)
    else if k = 8 then ((dpmbccRead s.dpmb).extractLsb' (if offset.getLsbD 1 then 16 else 0) 16, s)
    else freeRead s
  else
    let n := offset.extractLsb' 1 8
    if oakOwns s.dpmb n then freeRead s else (memWord s.data (mailboxAddr n), s)

/-- An ARM half-word read; one at an odd offset is a data abort (R528). -/
def armReadHalf (offset : BitVec 10) (s : State) : State :=
  if offset.getLsbD 0 then armRecord (.abort offset) s
  else armRecord (.half offset (armHalf offset s).1) (armHalf offset s).2

/-- An ARM word read: Oak word 2m in the low half, 2m + 1 in the high half (R528, D8); one that is not word-aligned is
a data abort. -/
def armReadWord (offset : BitVec 10) (s : State) : State :=
  if offset.extractLsb' 0 2 == 0#2 then
    let lo := armHalf offset s
    let hi := armHalf (offset ||| 2#10) lo.2
    armRecord (.word offset (hi.1 ++ lo.1)) hi.2
  else armRecord (.abort offset) s

/-- The effect of an ARM half-word write at an even offset (R521, R522, R524, R526). DESIGN CHOICE, log 34, unsafe: a
write at the registers ba[5:2] = 9 to 15, of which the spec names none, is dropped. -/
def armStore (offset : BitVec 10) (v : Word) (s : State) : State :=
  if offset.getLsbD 9 then
    let k := (offset.extractLsb' 2 4).toNat
    if k < 8 then (if offset.getLsbD 1 then s else { s with dpmb := armSemWrite k (v.getLsbD 0) s.dpmb })
    else if k = 8 then
      { s with dpmb := if offset.getLsbD 1 then dpmbccHigh v s.dpmb else dpmbccLow v s.dpmb }
    else s
  else
    let n := offset.extractLsb' 1 8
    if oakOwns s.dpmb n then s else { s with data := memSetWord s.data (mailboxAddr n) v }

/-- An ARM half-word write; one at an odd offset is a data abort (R528). -/
def armWriteHalf (offset : BitVec 10) (v : Word) (s : State) : State :=
  if offset.getLsbD 0 then armRecord (.abort offset) s else armStore offset v s

/-- An ARM word write: Oak word 2m in the low half, 2m + 1 in the high half (R528, D8); one that is not word-aligned is
a data abort. -/
def armWriteWord (offset : BitVec 10) (v : BitVec 32) (s : State) : State :=
  if offset.extractLsb' 0 2 == 0#2 then
    armStore (offset ||| 2#10) (v.extractLsb' 16 16) (armStore offset (v.extractLsb' 0 16) s)
  else armRecord (.abort offset) s

/-! ## Codec interface -/

/-- Sets a latch of CODSTS (R535). -/
def codecFlag (k : Nat) (c : Codec) : Codec := { c with sts := c.sts ||| (1#7 <<< k) }

/-- Sets a latch of CODSTS when `b` holds. -/
def codecFlagIf (b : Bool) (k : Nat) (c : Codec) : Codec := if b then codecFlag k c else c

/-- CODSCK.DWS: 32-bit entries (R534). -/
def codecWide (c : Codec) : Bool := c.sck.getLsbD 11

/-- A 32-bit entry from the two halves in the order they pass CODTX (R536). -/
def codecJoin (first second : Word) : BitVec 32 := if Config.codecHighFirst then first ++ second else second ++ first

/-- The halves of a 32-bit entry in the order they pass CODRX (R537). -/
def codecSplit (e : BitVec 32) : Word × Word :=
  if Config.codecHighFirst then (e.extractLsb' 16 16, e.extractLsb' 0 16) else (e.extractLsb' 0 16, e.extractLsb' 16 16)

/-- Appends an entry to the transmit FIFO; TXF when it becomes full (R538). -/
def codecTxPush (e : BitVec 32) (c : Codec) : Codec :=
  codecFlagIf (decide (Config.codecFifoDepth ≤ c.txFifo.length + 1)) 1 { c with txFifo := c.txFifo ++ [e] }

/-- A write of CODTX (R536); a write while the FIFO is full is a transmit overrun and is lost (R532, D31, log 15). -/
def codecTxWrite (v : Word) (c : Codec) : Codec :=
  if Config.codecFifoDepth ≤ c.txFifo.length then codecFlag 5 c
  else if codecWide c then
    match c.txHalf with
    | none => { c with txHalf := some v }
    | some h => codecTxPush (codecJoin h v) { c with txHalf := none }
  else codecTxPush (v.setWidth 32) c

/-- RXE when the receive FIFO has become empty (R538). -/
def codecRxPopped (c : Codec) : Codec := codecFlagIf c.rxFifo.isEmpty 2 c

/-- A read of CODRX (R537); of an empty FIFO it gives a free value (U12). DESIGN CHOICE, log 35, unsafe: with DWS = 1 the
entry leaves the FIFO at the read of its first half, so that an arrival between the two reads of an entry of a full
FIFO is no overrun. -/
def codecRxRead (s : State) : Word × State :=
  match s.codec.rxHalf with
  | some h => (h, { s with codec := codecRxPopped { s.codec with rxHalf := none } })
  | none =>
    match s.codec.rxFifo with
    | [] => freeRead s
    | e :: t =>
      if codecWide s.codec then
        ((codecSplit e).1, { s with codec := { s.codec with rxFifo := t, rxHalf := some (codecSplit e).2 } })
      else (e.extractLsb' 0 16, { s with codec := codecRxPopped { s.codec with rxFifo := t } })

/-- A received word arrives: ROV when the FIFO is full, RXF when it becomes full, RXW when it reaches FPS words
(R532, R538, R541 a). -/
def codecArrive (e : BitVec 32) (c : Codec) : Codec :=
  if Config.codecFifoDepth ≤ c.rxFifo.length then codecFlag 6 c
  else
    let n := c.rxFifo.length + 1
    codecFlagIf (decide (Config.codecFifoDepth ≤ n)) 3
      (codecFlagIf (decide (n = (c.sck.extractLsb' 14 2).toNat)) 4 { c with rxFifo := c.rxFifo ++ [e] })

/-- The agent delivers a word, if REN; LOOP overrides it (R532, R541). -/
def codecDeliver (e : BitVec 32) (c : Codec) : Codec :=
  if c.cnt.getLsbD 1 && !c.cnt.getLsbD 13 then codecArrive e c else c

/-- The agent takes a word, if TEN; TXE when the FIFO becomes empty; with LOOP it is delivered (R538, R541). -/
def codecTake (c : Codec) : Codec :=
  if c.cnt.getLsbD 0 then
    match c.txFifo with
    | [] => c
    | e :: t =>
      let d := codecFlagIf t.isEmpty 0 { c with txFifo := t }
      if c.cnt.getLsbD 13 && c.cnt.getLsbD 1 then codecArrive e d else d
  else c

/-- A read of a codec register (R531): CODSTS clears the latches (R535), CODTX gives a free value (U12). -/
def codecRead (a : Word) (s : State) : Word × State :=
  match a.toNat with
  | 0xEC00 => (s.codec.cnt, s)
  | 0xEC02 => (s.codec.frm, s)
  | 0xEC04 => (s.codec.sck, s)
  | 0xEC06 => (s.codec.sts.setWidth 16, { s with codec := { s.codec with sts := 0 } })
  | 0xEC08 => freeRead s
  | _ => codecRxRead s

/-- The codec after a write of one of its registers (R531); CODSTS and CODRX are read-only. -/
def codecWrite (a v : Word) (c : Codec) : Codec :=
  match a.toNat with
  | 0xEC00 => { c with cnt := v &&& 0x3FFF#16 }
  | 0xEC02 => { c with frm := v }
  | 0xEC04 => { c with sck := v }
  | 0xEC08 => codecTxWrite v c
  | _ => c

/-! ## Interrupt lines -/

/-- INT0: some mailbox has its Oak interrupt flag set (R523). -/
def int0Line (s : State) : Bool := s.dpmb.ois != 0

/-- The ARM's mailbox interrupt request: some mailbox has its ARM interrupt flag set (R501 d, R523). -/
def armIrqLine (s : State) : Bool := s.dpmb.ais != 0

/-- INT1: some latch of CODSTS is set whose enable in CODCNT is set (R538). -/
def int1Line (s : State) : Bool :=
  let on (flag enable : Nat) : Bool := s.codec.sts.getLsbD flag && s.codec.cnt.getLsbD enable
  on 0 2 || on 1 3 || on 5 4 || on 2 5 || on 3 6 || on 4 7 || on 6 8

/-- INT2 is not connected (R55, R71). -/
def int2Line (_s : State) : Bool := false

end Sys2Proof.Machine
end

