-- ==== Sys2Proof/Machine/Flags.lean ====
section
/-! DEFINITION. Flags, conditions, the 36-bit adder, the barrel shifter and the helpers of width
(spec/40_operands_and_flags.md section 3 to 6, spec/42_shift.md section 1). -/

namespace Sys2Proof.Machine

/-- sext_36 of a word. -/
def sext36 (v : Word) : Acc36 := v.signExtend 36

/-- zext_36 of a word. -/
def zext36 (v : Word) : Acc36 := v.setWidth 36

/-- Bits 35 to 31 are all equal: the value fits 32 bits. -/
def fits32 (v : Acc36) : Bool := v.extractLsb' 31 5 == 0#5 || v.extractLsb' 31 5 == 31#5

/-- The N flag of a 36-bit value: zero, or bits 31 and 30 differ and the extension repeats the sign (R180). -/
def isNormalized (v : Acc36) : Bool := v == 0 || ((v.getLsbD 31 ^^ v.getLsbD 30) && fits32 v)

/-- SetFlags36 (R180): Z, M, E, N from a 36-bit value. -/
def setFlags36 (v : Acc36) (f : Flags) : Flags :=
  { f with z := v == 0, m := v.msb, e := !fits32 v, n := isNormalized v }

/-- MovFlags (R340): Z, M, N of the destination accumulator. -/
def setFlagsMov (v : Acc36) (f : Flags) : Flags := { f with z := v == 0, m := v.msb, n := isNormalized v }

/-- C, V and the latched L of an arithmetic result, with SetFlags36 (R181). -/
def setFlagsArith (r : Acc36) (c v : Bool) (f : Flags) : Flags :=
  setFlags36 r { f with c := c, v := v, l := f.l || v }

/-- The carry of Add36: s[36] (R181). -/
def addCarry (a b : Acc36) : Bool := decide (2 ^ 36 ≤ a.toNat + b.toNat)

/-- The overflow of Add36. -/
def addOverflow (a b : Acc36) : Bool := (a.msb == b.msb) && ((a + b).msb != a.msb)

/-- The borrow of Sub36. -/
def subBorrow (a b : Acc36) : Bool := decide (a.toNat < b.toNat)

/-- The overflow of Sub36. -/
def subOverflow (a b : Acc36) : Bool := (a.msb != b.msb) && ((a - b).msb != a.msb)

/-- The flags of Add36(a, b). -/
def setFlagsAdd (a b : Acc36) (f : Flags) : Flags := setFlagsArith (a + b) (addCarry a b) (addOverflow a b) f

/-- The flags of Sub36(a, b). -/
def setFlagsSub (a b : Acc36) (f : Flags) : Flags := setFlagsArith (a - b) (subBorrow a b) (subOverflow a b) f

/-- Z and M of a 16-bit result (R321). -/
def setFlags16 (r : Word) (f : Flags) : Flags := { f with z := r == 0, m := r.msb }

/-- Z, M and C of a 16-bit addition (R321, R325). -/
def setFlagsAddv (v imm : Word) (f : Flags) : Flags :=
  { setFlags16 (v + imm) f with c := decide (2 ^ 16 ≤ v.toNat + imm.toNat) }

/-- Z, M and C of a 16-bit subtraction (R321, R326). -/
def setFlagsSubv (v imm : Word) (f : Flags) : Flags :=
  { setFlags16 (v - imm) f with c := decide (v.toNat < imm.toNat) }

/-- Limit32 (R185). -/
def limit32 (v : Acc36) : Acc36 :=
  if 0x7FFFFFFF < v.toInt then 0x07FFFFFFF#36 else if v.toInt < -0x80000000 then 0xF80000000#36 else v

/-- The flags of lim (R215): E cleared, L set when limiting occurred. -/
def setFlagsLim (src : Acc36) (f : Flags) : Flags :=
  { setFlagsMov (limit32 src) f with e := false, l := f.l || limit32 src != src }

/-- cond(cccc) on the flags and the pins (R190). -/
def condHolds (cc : Cond) (s : State) : Bool :=
  match cc with
  | .always => true
  | .eq => s.fl.z
  | .neq => !s.fl.z
  | .gt => !s.fl.m && !s.fl.z
  | .ge => !s.fl.m
  | .lt => s.fl.m
  | .le => s.fl.m || s.fl.z
  | .nn => !s.fl.n
  | .c => s.fl.c
  | .v => s.fl.v
  | .e => s.fl.e
  | .l => s.fl.l
  | .nr => !s.fl.r
  | .niu0 => !s.iuser0
  | .iu0 => s.iuser0
  | .iu1 => s.iuser1

/-- The amounts the barrel shifter is described for (R240). -/
def shiftInRange (n : Int) : Bool := decide (-36 ≤ n) && decide (n ≤ 36)

/-- The result of Shift36(v, n) for -36 ≤ n ≤ 36; `logical` is st2.S (R240). -/
def shiftResult (logical : Bool) (v : Acc36) (n : Int) : Acc36 :=
  if 0 ≤ n then v <<< n.toNat
  else if logical then v >>> (-n).toNat
  else v.sshiftRight (-n).toNat

/-- The last bit shifted out, 0 for n = 0 (R240). -/
def shiftCarry (v : Acc36) (n : Int) : Bool :=
  if 0 < n then v.getLsbD (36 - n.toNat)
  else if n < 0 then v.getLsbD ((-n).toNat - 1)
  else false

/-- V of an arithmetic shift (R241): a left shift that loses the sign. -/
def shiftOverflow (v : Acc36) (n : Int) : Bool :=
  if n ≤ 0 then false
  else if n < 36 then !(decide (-(2 ^ (35 - n.toNat) : Int) ≤ v.toInt) && decide (v.toInt < 2 ^ (35 - n.toNat)))
  else v != 0

/-- The flags after a shift or a rotate: R241 in arithmetic mode, R242 in logical mode. -/
def setFlagsShift (logical : Bool) (r : Acc36) (c v : Bool) (f : Flags) : Flags :=
  if logical then setFlags36 r { f with c := c } else setFlagsArith r c v f

/-- The length of the run of bits equal to `b` at the head of a list. -/
def runLength (b : Bool) : List Bool → Nat
  | [] => 0
  | x :: t => if x == b then 1 + runLength b t else 0

/-- Exponent (R275): the number of leading bits equal to bit 35, less 5. -/
def exponent (v : Acc36) : Int :=
  (runLength v.msb ((List.range 36).map fun k => v.getLsbD (35 - k)) : Int) - 5

end Sys2Proof.Machine
end

