-- ==== Sys2Proof/Machine/Legal.lean ====
section
/-! DEFINITION. Register names and the operand restrictions of the instruction pages
(spec/30_encoding.md R137, R140; spec/70_reset_and_hazards.md R575; U6, U8). -/

namespace Sys2Proof.Machine

/-- aX as one of the four accumulators. -/
def accOfA : AccA → Acc
  | .a0 => .a0
  | .a1 => .a1

/-- bX as one of the four accumulators. -/
def accOfB : AccB → Acc
  | .b0 => .b0
  | .b1 => .b1

/-- rI as rN. -/
def rnOfI : RI → RN
  | .r0 => .r0
  | .r1 => .r1
  | .r2 => .r2
  | .r3 => .r3

/-- rJ as rN. -/
def rnOfJ : RJ → RN
  | .r4 => .r4
  | .r5 => .r5

/-- rN as REG. -/
def regOfRN : RN → Reg
  | .r0 => .r0
  | .r1 => .r1
  | .r2 => .r2
  | .r3 => .r3
  | .r4 => .r4
  | .r5 => .r5

/-- rN* as REG. -/
def regOfStar : RNStar → Reg
  | .r0 => .r0
  | .r1 => .r1
  | .r2 => .r2
  | .r3 => .r3
  | .r4 => .r4
  | .r5 => .r5
  | .rb => .rb
  | .y => .y

/-- The accumulator a REG code names whole or by a half (R11: ac and bc). -/
def accOfReg : Reg → Option Acc
  | .a0 | .a0l | .a0h => some .a0
  | .a1 | .a1l | .a1h => some .a1
  | .b0l | .b0h => some .b0
  | .b1l | .b1h => some .b1
  | _ => none

/-- The same for the class ac only. -/
def accAOfReg : Reg → Option Acc
  | .a0 | .a0l | .a0h => some .a0
  | .a1 | .a1l | .a1h => some .a1
  | _ => none

/-- The sources of more than 16 bits: a0, a1 and the shifted p (R170). -/
def isWide : Reg → Bool
  | .a0 | .a1 | .p => true
  | _ => false

/-- `r` is the accumulator aX or one of its halves (R176). -/
def isPartOf (a : AccA) (r : Reg) : Bool := accAOfReg r == some (accOfA a)

/-- "The REG cannot be aX, bX, p." DESIGN CHOICE, log 50, unsafe: for msu, sqra and the mac family this is the only
restriction, so that a half of the destination accumulator is a REG that runs (msu y, a0l, a0): R176 applies restriction
10a to the ALU group, spec/41_alu.md to R201 to R211, U6 to "ALM/ALU", and none of them names these. -/
def rule16 (r : Reg) : Option OperandRule := if isWide r then some .excluded else none

/-- add, sub, cmp, and, or, xor, movr: only the destination accumulator and its halves are excluded (R176). -/
def ruleAlu36 (a : AccA) (r : Reg) : Option OperandRule := if isPartOf a r then some .sameAccumulator else none

/-- addh, addl, subh, subl, cmpu: not aX, p (R202), and R176. -/
def ruleAlu16 (a : AccA) (r : Reg) : Option OperandRule :=
  if isWide r then some .excluded else if isPartOf a r then some .sameAccumulator else none

/-- tst0 and tst1 with mask aXl: not aX, p; "tst0 a0l, a0l and tst0 a1l, a1l are forbidden" (R328, R329). -/
def ruleTstAcc (a : AccA) (r : Reg) : Option OperandRule :=
  if isWide r then some .excluded
  else match a, r with
    | .a0, .a0l => some .sameAccumulator
    | .a1, .a1l => some .sameAccumulator
    | _, _ => none

/-- addv, subv: "The REG cannot be aX, bX, p, pc" (R325, R326). -/
def ruleAddv (r : Reg) : Option OperandRule := if isWide r || r == .pc then some .excluded else none

/-- exp: REG, not p (R275). -/
def ruleExp (r : Reg) : Option OperandRule := if r == .p then some .excluded else none

/-- mov REG, REG: p only to aX, aX never a source, source and destination differ (R341). -/
def ruleMovRegReg (src dst : Reg) : Option OperandRule :=
  if src == dst || src == .a0 || src == .a1 || (src == .p && !(dst == .a0 || dst == .a1)) then some .excluded else none

/-- mov REG, (rN): not a0, a1, p, and not the same rN with post-modification (R344). -/
def ruleMovRegInd (r : Reg) (n : RN) (m : PostMod) : Option OperandRule :=
  if isWide r || (r == regOfRN n && m != .keep) then some .excluded else none

/-- mov (rN), REG: not the same rN with post-modification (R345). -/
def ruleMovIndReg (n : RN) (m : PostMod) (r : Reg) : Option OperandRule :=
  if r == regOfRN n && m != .keep then some .excluded else none

/-- movp (rN), (rI): two different registers (R376). -/
def ruleMovpInd (n : RN) (i : RI) : Option OperandRule := if n == rnOfI i then some .excluded else none

/-- push REG: not aX, bX, p, sp (R388). -/
def rulePush (r : Reg) : Option OperandRule := if isWide r || r == .sp then some .excluded else none

/-- pop REG: not sp (R390). -/
def rulePop (r : Reg) : Option OperandRule := if r == .sp then some .excluded else none

/-- The operand restriction an instruction breaks, if any (R575, U6, U8). That msu, sqra, mac, macsu, macus, macuu, maa and
maasu have only `rule16`, and no rule on the destination accumulator, is the model's choice (log 50). -/
def operandRule : Instr → Option OperandRule
  | .orDirect _ _ => none
  | .orInd _ _ _ => none
  | .orReg a r => ruleAlu36 a r
  | .andDirect _ _ => none
  | .andInd _ _ _ => none
  | .andReg a r => ruleAlu36 a r
  | .xorDirect _ _ => none
  | .xorInd _ _ _ => none
  | .xorReg a r => ruleAlu36 a r
  | .addDirect _ _ => none
  | .addInd _ _ _ => none
  | .addReg a r => ruleAlu36 a r
  | .tst0AccDirect _ _ => none
  | .tst0AccInd _ _ _ => none
  | .tst0AccReg a r => ruleTstAcc a r
  | .tst1AccDirect _ _ => none
  | .tst1AccInd _ _ _ => none
  | .tst1AccReg a r => ruleTstAcc a r
  | .cmpDirect _ _ => none
  | .cmpInd _ _ _ => none
  | .cmpReg a r => ruleAlu36 a r
  | .subDirect _ _ => none
  | .subInd _ _ _ => none
  | .subReg a r => ruleAlu36 a r
  | .msuDirect _ _ => none
  | .msuInd _ _ _ => none
  | .msuReg _ r => rule16 r
  | .addhDirect _ _ => none
  | .addhInd _ _ _ => none
  | .addhReg a r => ruleAlu16 a r
  | .addlDirect _ _ => none
  | .addlInd _ _ _ => none
  | .addlReg a r => ruleAlu16 a r
  | .subhDirect _ _ => none
  | .subhInd _ _ _ => none
  | .subhReg a r => ruleAlu16 a r
  | .sublDirect _ _ => none
  | .sublInd _ _ _ => none
  | .sublReg a r => ruleAlu16 a r
  | .sqrDirect _ => none
  | .sqrInd _ _ => none
  | .sqrReg r => rule16 r
  | .sqraDirect _ _ => none
  | .sqraInd _ _ _ => none
  | .sqraReg _ r => rule16 r
  | .cmpuDirect _ _ => none
  | .cmpuInd _ _ _ => none
  | .cmpuReg a r => ruleAlu16 a r
  | .orShort _ _ => none
  | .orLong _ _ => none
  | .orRbShort _ _ => none
  | .orRbLong _ _ => none
  | .orLongDirect _ _ => none
  | .andShort _ _ => none
  | .andLong _ _ => none
  | .andRbShort _ _ => none
  | .andRbLong _ _ => none
  | .andLongDirect _ _ => none
  | .xorShort _ _ => none
  | .xorLong _ _ => none
  | .xorRbShort _ _ => none
  | .xorRbLong _ _ => none
  | .xorLongDirect _ _ => none
  | .addShort _ _ => none
  | .addLong _ _ => none
  | .addRbShort _ _ => none
  | .addRbLong _ _ => none
  | .addLongDirect _ _ => none
  | .cmpShort _ _ => none
  | .cmpLong _ _ => none
  | .cmpRbShort _ _ => none
  | .cmpRbLong _ _ => none
  | .cmpLongDirect _ _ => none
  | .subShort _ _ => none
  | .subLong _ _ => none
  | .subRbShort _ _ => none
  | .subRbLong _ _ => none
  | .subLongDirect _ _ => none
  | .shrA _ _ => none
  | .shr4A _ _ => none
  | .shlA _ _ => none
  | .shl4A _ _ => none
  | .rorA _ _ => none
  | .rolA _ _ => none
  | .clrA _ _ => none
  | .notA _ _ => none
  | .negA _ _ => none
  | .rndA _ _ => none
  | .pacrA _ _ => none
  | .clrrA _ _ => none
  | .incA _ _ => none
  | .decA _ _ => none
  | .copyA _ _ => none
  | .shrB _ _ => none
  | .shr4B _ _ => none
  | .shlB _ _ => none
  | .shl4B _ _ => none
  | .rorB _ _ => none
  | .rolB _ _ => none
  | .clrB _ _ => none
  | .norm _ _ _ => none
  | .divs _ _ => none
  | .setInd _ _ _ => none
  | .setReg _ r => rule16 r
  | .setDirect _ _ => none
  | .rstInd _ _ _ => none
  | .rstReg _ r => rule16 r
  | .rstDirect _ _ => none
  | .chngInd _ _ _ => none
  | .chngReg _ r => rule16 r
  | .chngDirect _ _ => none
  | .addvInd _ _ _ => none
  | .addvReg _ r => ruleAddv r
  | .addvDirect _ _ => none
  | .tst0LongInd _ _ _ => none
  | .tst0LongReg _ r => rule16 r
  | .tst0LongDirect _ _ => none
  | .tst1LongInd _ _ _ => none
  | .tst1LongReg _ r => rule16 r
  | .tst1LongDirect _ _ => none
  | .cmpvInd _ _ _ => none
  | .cmpvReg _ r => rule16 r
  | .cmpvDirect _ _ => none
  | .subvInd _ _ _ => none
  | .subvReg _ r => ruleAddv r
  | .subvDirect _ _ => none
  | .maxd _ _ _ => none
  | .max _ _ _ => none
  | .min _ _ _ => none
  | .lim _ _ => none
  | .mpyInd _ _ => none
  | .mpyReg r => rule16 r
  | .mpyDual _ _ _ _ => none
  | .mpyLong _ _ _ => none
  | .mpysuInd _ _ => none
  | .mpysuReg r => rule16 r
  | .mpysuDual _ _ _ _ => none
  | .mpysuLong _ _ _ => none
  | .macInd _ _ _ => none
  | .macReg _ r => rule16 r
  | .macDual _ _ _ _ _ => none
  | .macLong _ _ _ _ => none
  | .macusInd _ _ _ => none
  | .macusReg _ r => rule16 r
  | .macusDual _ _ _ _ _ => none
  | .macusLong _ _ _ _ => none
  | .maaInd _ _ _ => none
  | .maaReg _ r => rule16 r
  | .maaDual _ _ _ _ _ => none
  | .maaLong _ _ _ _ => none
  | .macuuInd _ _ _ => none
  | .macuuReg _ r => rule16 r
  | .macuuDual _ _ _ _ _ => none
  | .macuuLong _ _ _ _ => none
  | .macsuInd _ _ _ => none
  | .macsuReg _ r => rule16 r
  | .macsuDual _ _ _ _ _ => none
  | .macsuLong _ _ _ _ => none
  | .maasuInd _ _ _ => none
  | .maasuReg _ r => rule16 r
  | .maasuDual _ _ _ _ _ => none
  | .maasuLong _ _ _ _ => none
  | .mpyDirect _ => none
  | .macDirect _ _ => none
  | .maaDirect _ _ => none
  | .macsuDirect _ _ => none
  | .mpyi _ => none
  | .msuLong _ _ _ _ => none
  | .msuDual _ _ _ _ _ => none
  | .tstbInd _ _ _ => none
  | .tstbReg r _ => rule16 r
  | .tstbDirect _ _ => none
  | .shfc _ _ _ => none
  | .shfi _ _ _ => none
  | .expInd _ _ _ => none
  | .expReg r _ => ruleExp r
  | .expAcc _ _ => none
  | .movRegReg src dst => ruleMovRegReg src dst
  | .movAccAcc _ _ => none
  | .movAccDvm _ => none
  | .movAccX _ => none
  | .movRegB r _ => rule16 r
  | .movRegMixp r => rule16 r
  | .movRegInd r n m => ruleMovRegInd r n m
  | .movMixpReg _ => none
  | .movSpecAcc _ _ => none
  | .movIcrAcc _ => none
  | .movIndReg n m r => ruleMovIndReg n m r
  | .movIndB _ _ _ => none
  | .movSpReg _ => none
  | .movRnDirect _ _ => none
  | .movHalfDirect _ _ _ => none
  | .movDirectRn _ _ => none
  | .movDirectAcc _ _ => none
  | .movDirectHalf _ _ _ => none
  | .movDirectHighEu _ _ => none
  | .movDirectSv _ => none
  | .movSvDirect _ => none
  | .movLongDirectA _ _ => none
  | .movALongDirect _ _ => none
  | .movLongReg _ _ => none
  | .movLongB _ _ => none
  | .movShortHalf _ _ _ => none
  | .movShortRn _ _ => none
  | .movShortExt _ _ => none
  | .movShortSv _ => none
  | .movRegIcr r => rule16 r
  | .movShortIcr _ => none
  | .movRbShortA _ _ => none
  | .movARbShort _ _ => none
  | .movRbLongA _ _ => none
  | .movARbLong _ _ => none
  | .movpAccReg _ _ => none
  | .movpIndInd n _ i _ => ruleMovpInd n i
  | .movsReg r _ => rule16 r
  | .movsInd _ _ _ => none
  | .movsDirect _ _ => none
  | .movsi _ _ _ => none
  | .movrReg r a => ruleAlu36 a r
  | .movrInd _ _ _ => none
  | .pushReg r => rulePush r
  | .pushLong _ => none
  | .pop r => rulePop r
  | .swap _ => none
  | .banke _ => none
  | .movd _ _ _ _ => none
  | .repReg r => rule16 r
  | .repShort _ => none
  | .bkrepShort _ _ => none
  | .bkrepReg r _ => rule16 r
  | .br _ _ => none
  | .brr _ _ => none
  | .call _ _ => none
  | .callr _ _ => none
  | .calla _ => none
  | .ret _ => none
  | .reti _ _ => none
  | .cntx _ => none
  | .rets _ => none
  | .modr _ _ _ => none
  | .loadPage _ => none
  | .loadMod _ _ => none
  | .loadStep _ _ => none
  | .loadPs _ => none
  | .brk => none
  | .retd => none
  | .retid => none
  | .nop => none
  | .eint => none
  | .dint => none
  | .trap => none

end Sys2Proof.Machine
end

