-- ==== Sys2Proof/Machine/Ops.lean ====
section
/-! DEFINITION. The named operations over registers, memory, stack, loops and exceptions that the meanings share
(spec/10_state.md, spec/20_memory.md, spec/40_operands_and_flags.md, spec/60_exceptions.md). -/

namespace Sys2Proof.Machine

/-- What an operation that may stop answers. -/
abbrev Res (α : Type) := Host.Outcome α Fault Refusal

/-- Goes on with what `r` answers, or stops as `r` stops. -/
def andThen {α β : Type} (r : Res α) (k : α → Res β) : Res β :=
  match r with
  | .next a => k a
  | .fault f => .fault f
  | .refused f => .refused f

/-- Goes on when no operand restriction is broken, else refuses (U6, U8). -/
def checkOperand (o : Option OperandRule) (r : Res State) : Res State :=
  match o with
  | none => r
  | some .excluded => .refused .excludedOperand
  | some .sameAccumulator => .refused .sameAccumulator

/-! ## Registers -/

/-- The 36 bits of an accumulator (R20, R21). -/
def getAcc (a : Acc) (s : State) : Acc36 :=
  match a with
  | .b0 => s.regs.b0
  | .b1 => s.regs.b1
  | .a0 => s.regs.a0
  | .a1 => s.regs.a1

/-- Writes the 36 bits of an accumulator. -/
def setAcc (a : Acc) (v : Acc36) (s : State) : State :=
  match a with
  | .b0 => { s with regs := { s.regs with b0 := v } }
  | .b1 => { s with regs := { s.regs with b1 := v } }
  | .a0 => { s with regs := { s.regs with a0 := v } }
  | .a1 => { s with regs := { s.regs with a1 := v } }

/-- An address register (R26). -/
def getRN (n : RN) (s : State) : Word :=
  match n with
  | .r0 => s.regs.r0
  | .r1 => s.regs.r1
  | .r2 => s.regs.r2
  | .r3 => s.regs.r3
  | .r4 => s.regs.r4
  | .r5 => s.regs.r5

/-- Writes an address register. -/
def setRN (n : RN) (v : Word) (s : State) : State :=
  match n with
  | .r0 => { s with regs := { s.regs with r0 := v } }
  | .r1 => { s with regs := { s.regs with r1 := v } }
  | .r2 => { s with regs := { s.regs with r2 := v } }
  | .r3 => { s with regs := { s.regs with r3 := v } }
  | .r4 => { s with regs := { s.regs with r4 := v } }
  | .r5 => { s with regs := { s.regs with r5 := v } }

/-- A half of a 36-bit value, raw. -/
def halfOf (h : Half) (v : Acc36) : Word :=
  match h with
  | .lo => v.extractLsb' 0 16
  | .hi => v.extractLsb' 16 16

/-- The read image of st0 (R36): A0E Z M N V C E L R IM1 IM0 IE SAT. -/
def st0Image (s : State) : Word :=
  s.regs.a0.extractLsb' 32 4 ++ BitVec.ofBool s.fl.z ++ BitVec.ofBool s.fl.m ++ BitVec.ofBool s.fl.n ++
    BitVec.ofBool s.fl.v ++ BitVec.ofBool s.fl.c ++ BitVec.ofBool s.fl.e ++ BitVec.ofBool s.fl.l ++
    BitVec.ofBool s.fl.r ++ BitVec.ofBool s.md.im1 ++ BitVec.ofBool s.md.im0 ++ BitVec.ofBool s.md.ie ++
    BitVec.ofBool s.md.sat

/-- The read image of st1 (R49, R53): A1E PS 00 PAGE. -/
def st1Image (s : State) : Word := s.regs.a1.extractLsb' 32 4 ++ s.md.ps ++ 0#2 ++ s.md.page

/-- st2[7:0]: S IM2 M5 to M0 (R54). -/
def st2Low (s : State) : BitVec 8 := BitVec.ofBool s.md.s ++ BitVec.ofBool s.md.im2 ++ s.md.mEn

/-- The read image of st2 (R54, R55, R56): IP1 IP0 IP2 0 IU1 IU0 OU1 OU0 S IM2 M5 to M0. -/
def st2Image (s : State) : Word :=
  BitVec.ofBool (int1Line s) ++ BitVec.ofBool (int0Line s) ++ BitVec.ofBool (int2Line s) ++ 0#1 ++
    BitVec.ofBool s.iuser1 ++ BitVec.ofBool s.iuser0 ++ BitVec.ofBool s.md.ou1 ++ BitVec.ofBool s.md.ou0 ++ st2Low s

/-- The read image of icr (R62): BC LP IC2 IC1 IC0 NMIC below eight zeros. -/
def icrImage (s : State) : Word :=
  0#8 ++ s.ctl.bc ++ BitVec.ofBool s.ctl.lp ++ BitVec.ofBool s.md.ic2 ++ BitVec.ofBool s.md.ic1 ++
    BitVec.ofBool s.md.ic0 ++ BitVec.ofBool s.md.nmic

/-- One EXT_READ (R67, R580): a free value, logged, seen by the OCEM. -/
def extRead (k : BitVec 2) (s : State) : Word × State :=
  (Config.extRead k s.freeCount,
    ocemExtWatch 6 { s with freeCount := s.freeCount + 1, extLog := s.extLog ++ [.read k] })

/-- One EXT_WRITE (R67, R580): logged, seen by the OCEM. -/
def extWrite (k : BitVec 2) (v : Word) (s : State) : State :=
  ocemExtWatch 5 { s with extLog := s.extLog ++ [.write k v] }

/-- SatRead (R171): a half on its way to the data bus, limited and L set when the accumulator does not fit. -/
def satRead (a : Acc) (h : Half) (s : State) : Word × State :=
  let v := getAcc a s
  if !s.md.sat && !fits32 v then
    ((match v.msb, h with
      | false, .hi => 0x7FFF#16
      | false, .lo => 0xFFFF#16
      | true, .hi => 0x8000#16
      | true, .lo => 0x0000#16), { s with fl := { s.fl with l := true } })
  else (halfOf h v, s)

/-- The half of an accumulator a REG code names. -/
def halfOfReg (r : Reg) : Option (Acc × Half) :=
  match r with
  | .b0h => some (.b0, .hi)
  | .b1h => some (.b1, .hi)
  | .b0l => some (.b0, .lo)
  | .b1l => some (.b1, .lo)
  | .a0l => some (.a0, .lo)
  | .a1l => some (.a1, .lo)
  | .a0h => some (.a0, .hi)
  | .a1h => some (.a1, .hi)
  | _ => none

/-- The 16 bits a register other than an ext port holds (R170), accumulator halves raw. For a0, a1 and p, which no
16-bit operand may name, the low half and ph: no meaning uses them. -/
def regValue (r : Reg) (s : State) : Word :=
  match r with
  | .r0 => s.regs.r0
  | .r1 => s.regs.r1
  | .r2 => s.regs.r2
  | .r3 => s.regs.r3
  | .r4 => s.regs.r4
  | .r5 => s.regs.r5
  | .rb => s.regs.rb
  | .y => s.regs.y
  | .st0 => st0Image s
  | .st1 => st1Image s
  | .st2 => st2Image s
  | .p => s.regs.p.extractLsb' 16 16
  | .pc => s.pc
  | .sp => s.regs.sp
  | .cfgi => s.regs.cfgi
  | .cfgj => s.regs.cfgj
  | .b0h => halfOf .hi s.regs.b0
  | .b1h => halfOf .hi s.regs.b1
  | .b0l => halfOf .lo s.regs.b0
  | .b1l => halfOf .lo s.regs.b1
  | .ext0 | .ext1 | .ext2 | .ext3 => 0
  | .a0 => halfOf .lo s.regs.a0
  | .a1 => halfOf .lo s.regs.a1
  | .a0l => halfOf .lo s.regs.a0
  | .a1l => halfOf .lo s.regs.a1
  | .a0h => halfOf .hi s.regs.a0
  | .a1h => halfOf .hi s.regs.a1
  | .lc => s.regs.lc
  | .sv => s.regs.sv

/-- The port a REG code names. -/
def extOfReg (r : Reg) : Option (BitVec 2) :=
  match r with
  | .ext0 => some 0
  | .ext1 => some 1
  | .ext2 => some 2
  | .ext3 => some 3
  | _ => none

/-- ReadReg (R170) with accumulator halves raw: for every instruction but mov and push (D17). -/
def readReg (r : Reg) (s : State) : Word × State :=
  match extOfReg r with
  | some k => extRead k s
  | none => (regValue r s, s)

/-- ReadReg (R170) with accumulator halves through SatRead: for mov and push (D17). -/
def readRegSat (r : Reg) (s : State) : Word × State :=
  match halfOfReg r with
  | some (a, h) => satRead a h s
  | none => readReg r s

/-- A half written by a move: the low half clears the rest, the high half clears the low half and extends the sign
(R172). -/
def accOfHalf (h : Half) (v : Word) : Acc36 :=
  match h with
  | .lo => zext36 v
  | .hi => (v.signExtend 20 ++ 0#16 : BitVec 36)

/-- The write of st0 (R48, R172): all flags, IM1, IM0, IE, SAT, and a0[35:32]. -/
def writeSt0 (v : Word) (s : State) : State :=
  { s with
    regs := { s.regs with a0 := v.extractLsb' 12 4 ++ s.regs.a0.extractLsb' 0 32 }
    fl := { z := v.getLsbD 11, m := v.getLsbD 10, n := v.getLsbD 9, v := v.getLsbD 8, c := v.getLsbD 7,
            e := v.getLsbD 6, l := v.getLsbD 5, r := v.getLsbD 4 }
    md := { s.md with im1 := v.getLsbD 3, im0 := v.getLsbD 2, ie := v.getLsbD 1, sat := v.getLsbD 0 } }

/-- The write of st1 (R50 to R53, R172). -/
def writeSt1 (v : Word) (s : State) : State :=
  { s with
    regs := { s.regs with a1 := v.extractLsb' 12 4 ++ s.regs.a1.extractLsb' 0 32 }
    md := { s.md with ps := v.extractLsb' 10 2, page := v.extractLsb' 0 8 } }

/-- st2[7:0] written (R58 to R60). -/
def writeSt2Low (v : BitVec 8) (s : State) : State :=
  { s with md := { s.md with s := v.getLsbD 7, im2 := v.getLsbD 6, mEn := v.extractLsb' 0 6 } }

/-- The write of st2 (R55 to R61, R172): bits 9 to 0. -/
def writeSt2 (v : Word) (s : State) : State :=
  writeSt2Low (v.extractLsb' 0 8) { s with md := { s.md with ou1 := v.getLsbD 9, ou0 := v.getLsbD 8 } }

/-- The write of ph (R23, R24, R172). -/
def writePh (v : Word) (s : State) : State :=
  { s with regs := { s.regs with p := v ++ s.regs.p.extractLsb' 0 16, pUnsigned := false } }

/-- WriteReg (R172). -/
def writeReg (r : Reg) (v : Word) (s : State) : State :=
  match r with
  | .r0 => setRN .r0 v s
  | .r1 => setRN .r1 v s
  | .r2 => setRN .r2 v s
  | .r3 => setRN .r3 v s
  | .r4 => setRN .r4 v s
  | .r5 => setRN .r5 v s
  | .rb => { s with regs := { s.regs with rb := v } }
  | .y => { s with regs := { s.regs with y := v } }
  | .st0 => writeSt0 v s
  | .st1 => writeSt1 v s
  | .st2 => writeSt2 v s
  | .p => writePh v s
  | .pc => { s with pc := v }
  | .sp => { s with regs := { s.regs with sp := v } }
  | .cfgi => { s with regs := { s.regs with cfgi := v } }
  | .cfgj => { s with regs := { s.regs with cfgj := v } }
  | .b0h => setAcc .b0 (accOfHalf .hi v) s
  | .b1h => setAcc .b1 (accOfHalf .hi v) s
  | .b0l => setAcc .b0 (accOfHalf .lo v) s
  | .b1l => setAcc .b1 (accOfHalf .lo v) s
  | .ext0 => extWrite 0 v s
  | .ext1 => extWrite 1 v s
  | .ext2 => extWrite 2 v s
  | .ext3 => extWrite 3 v s
  | .a0 => setAcc .a0 (sext36 v) s
  | .a1 => setAcc .a1 (sext36 v) s
  | .a0l => setAcc .a0 (accOfHalf .lo v) s
  | .a1l => setAcc .a1 (accOfHalf .lo v) s
  | .a0h => setAcc .a0 (accOfHalf .hi v) s
  | .a1h => setAcc .a1 (accOfHalf .hi v) s
  | .lc => { s with regs := { s.regs with lc := v } }
  | .sv => { s with regs := { s.regs with sv := v } }

/-- An accumulator with one half replaced, the rest kept (R320). -/
def withHalf (h : Half) (v : Word) (acc : Acc36) : Acc36 :=
  match h with
  | .lo => acc.extractLsb' 16 20 ++ v
  | .hi => acc.extractLsb' 32 4 ++ v ++ acc.extractLsb' 0 16

/-- AlbWrite to a register (R320): as WriteReg, but of an accumulator half only that half changes. -/
def writeRegPart (r : Reg) (v : Word) (s : State) : State :=
  match halfOfReg r with
  | some (a, h) => setAcc a (withHalf h v (getAcc a s)) s
  | none => writeReg r v s

/-- All block-repeat levels are left (R64, R426). -/
def leaveAll (s : State) : State :=
  { s with ctl := { s.ctl with lp := false, bc := 0, bkSaved := [], lpClear := none } }

/-- IcrWrite (R64, R65, R365): NMIC, IC0, IC1, IC2, and the LP clear of bit 4. `addr` is the address of the writing
instruction: at one of the last three addresses of the running body the clear waits for the loop-end test of that body's
level (R426, log 23). -/
def writeIcr (v addr : Word) (s : State) : State :=
  let t : State := { s with md := { s.md with
    nmic := v.getLsbD 0, ic0 := v.getLsbD 1, ic1 := v.getLsbD 2, ic2 := v.getLsbD 3 } }
  if v.getLsbD 4 then
    if s.ctl.lp && decide ((s.ctl.bkEnd - addr).toNat ≤ 2) then { t with ctl := { t.ctl with lpClear := some s.ctl.bc } }
    else leaveAll t
  else t

/-! ## Address registers: modulo and linear modification -/

/-- The amount a post-modification adds (R99, R100). -/
def modAmount (m : PostMod) (cfg : Word) : Int :=
  match m with
  | .keep => 0
  | .inc => 1
  | .dec => -1
  | .step => (cfg.extractLsb' 0 7).toInt

/-- The configuration register of an address register (R99). -/
def cfgOf (n : RN) (s : State) : Word :=
  match n with
  | .r0 | .r1 | .r2 | .r3 => s.regs.cfgi
  | .r4 | .r5 => s.regs.cfgj

/-- The modulo enable bit of an address register (R60). -/
def moduloOn (n : RN) (s : State) : Bool :=
  match n with
  | .r0 => s.md.mEn.getLsbD 0
  | .r1 => s.md.mEn.getLsbD 1
  | .r2 => s.md.mEn.getLsbD 2
  | .r3 => s.md.mEn.getLsbD 3
  | .r4 => s.md.mEn.getLsbD 4
  | .r5 => s.md.mEn.getLsbD 5

/-- The number k of low bits in which the modulo modifier works (R101): log2 M when M = MOD + |q| is a power of two,
else the least k with 2^k > MOD. -/
def moduloBits (q : Int) (mod : Nat) : Nat :=
  if 2 ^ (mod + q.natAbs).log2 = mod + q.natAbs then (mod + q.natAbs).log2 else mod.log2 + 1

/-- The constraints of R102 that show in the operands: a step that is not 0 and, when M is not a power of two, MOD
and the pointer at multiples of the step inside the buffer (U4, log 8). -/
def moduloProper (r : Word) (q : Int) (mod : Nat) : Bool :=
  q != 0 && (decide (2 ^ (mod + q.natAbs).log2 = mod + q.natAbs) ||
    (decide (r.toNat % 2 ^ moduloBits q mod ≤ mod) && decide (mod % q.natAbs = 0) &&
      decide (r.toNat % 2 ^ moduloBits q mod % q.natAbs = 0)))

/-- ModStep (R101) for MOD ≠ 0. -/
def moduloStep (r : Word) (q : Int) (mod : Nat) : Word :=
  let k := moduloBits q mod
  let low := r.toNat % 2 ^ k
  let new := if 0 ≤ q ∧ low = mod then 0 else if q < 0 ∧ low = 0 then mod else (((low : Int) + q) % (2 ^ k : Int)).toNat
  BitVec.ofNat 16 (r.toNat - low + new)

/-- PostMod (R100). With modulo parameters outside the constraints of R102 the new value is free (U4). -/
def postMod (n : RN) (m : PostMod) (dmod : Bool) (s : State) : State :=
  let q := modAmount m (cfgOf n s)
  let mod := ((cfgOf n s).extractLsb' 7 9).toNat
  let r := getRN n s
  if m == .keep then s
  else if moduloOn n s && !dmod then
    if mod = 0 then s
    else if moduloProper r q mod then setRN n (moduloStep r q mod) s
    else setRN n (Config.freeWord s.freeCount) { s with freeCount := s.freeCount + 1 }
  else setRN n (r + BitVec.ofInt 16 q) s

/-- Ea (R100): the address register before its post-modification, and the state after it. -/
def ea (n : RN) (m : PostMod) (s : State) : Word × State := (getRN n s, postMod n m false s)

/-! ## Data and program memory -/

/-- The region of a data address (R83, R500, R521). -/
def dataRegion (a : Word) : DataRegion :=
  let n := a.toNat
  if n < 0x0800 || (decide (0x4000 ≤ n) && decide (n < 0x8000)) || decide (0xF800 ≤ n) then .ram
  else if decide (0xE000 ≤ n) && decide (n < 0xE800) then .mailbox
  else if decide (0xE800 ≤ n) && decide (n < 0xEC00) then .semaphore
  else if [0xEC00, 0xEC02, 0xEC04, 0xEC06, 0xEC08, 0xEC0A].contains n then .codec
  else if [0xF7F0, 0xF7F1, 0xF7F2, 0xF7F3, 0xF7F7, 0xF7F8, 0xF7F9, 0xF7FA, 0xF7FB, 0xF7FD, 0xF7FE, 0xF7FF].contains n
    then .ocem
  else .unmapped

/-- A read with nothing behind the address, of the space whose parameter is `u` (D5, D6). -/
def unmappedRead (u : Unmapped) (f : Fault) (s : State) : Res (Word × State) :=
  match u with
  | .refuse => .fault f
  | .anyValue => .next (freeRead s)

/-- A write with nothing behind the address. -/
def unmappedWrite (u : Unmapped) (f : Fault) (s : State) : Res State :=
  match u with
  | .refuse => .fault f
  | .anyValue => .next s

/-- The value and the effect of a data read (R84): RAM; mailbox RAM with permission, else a free value (R522, U10);
semaphore; codec; OCEM. -/
def dataReadRaw (a : Word) (s : State) : Res (Word × State) :=
  match dataRegion a with
  | .ram => .next (memWord s.data a, s)
  | .mailbox =>
    let n := a.extractLsb' 0 8
    if oakOwns s.dpmb n then .next (memWord s.data (mailboxAddr n), s)
    else .next (freeRead s)
  | .semaphore => .next (semRead s.dpmb (a.extractLsb' 0 3).toNat, s)
  | .codec => .next (codecRead a s)
  | .ocem => .next (ocemRead a s)
  | .unmapped => unmappedRead Config.unmappedData .unmappedData s

/-- The effect of a data write (R84): a mailbox word without permission is ignored (R522). -/
def dataWriteRaw (a v : Word) (s : State) : Res State :=
  match dataRegion a with
  | .ram => .next { s with data := memSetWord s.data a v }
  | .mailbox =>
    let n := a.extractLsb' 0 8
    if oakOwns s.dpmb n then .next { s with data := memSetWord s.data (mailboxAddr n) v } else .next s
  | .semaphore => .next { s with dpmb := oakSemWrite (a.extractLsb' 0 3).toNat (v.getLsbD 0) s.dpmb }
  | .codec => .next { s with codec := codecWrite a v s.codec }
  | .ocem => .next { s with ocem := ocemWrite a v s.ocem }
  | .unmapped => unmappedWrite Config.unmappedData .unmappedData s

/-- DataRead (R84) over XDB, seen by the OCEM. -/
def dataRead (a : Word) (s : State) : Res (Word × State) :=
  andThen (dataReadRaw a s) fun q => .next (q.1, ocemWatch true a (some q.1) s q.2)

/-- The read of a word of Y-RAM over YDB, the Y operand of a dual access (R85, R93). The value match of the OCEM compares
the data on XDB (R66) and does not see it. DESIGN CHOICE, log 49, unsafe: the address match does, as a data read of its
16-bit address, where R509 says "data address bus" and R510 "a data read", and neither names YAB. -/
def yRamRead (a : Word) (s : State) : Word × State := (memWord s.data a, ocemWatch true a none s s)

/-- DataWrite (R84) over XDB, seen by the OCEM. -/
def dataWrite (a v : Word) (s : State) : Res State :=
  andThen (dataWriteRaw a v s) fun t => .next (ocemWatch false a (some v) s t)

/-- Program memory is implemented at 0x0000 to 0x5FFF (R81). -/
def progMapped (a : Word) : Bool := decide (a.toNat < 0x6000)

/-- ProgRead (R82). -/
def progRead (a : Word) (s : State) : Res (Word × State) :=
  if progMapped a then .next (memWord s.prog a, s) else unmappedRead Config.unmappedProg .unmappedProg s

/-- ProgWrite (R82). -/
def progWrite (a v : Word) (s : State) : Res State :=
  if progMapped a then .next { s with prog := memSetWord s.prog a v }
  else unmappedWrite Config.unmappedProg .unmappedProg s

/-- A short direct address: PAGE above the eight bits of the instruction (R90). -/
def directAddr (d : BitVec 8) (s : State) : Word := s.md.page ++ d

/-- A short index address (R94). -/
def rbShortAddr (o : BitVec 7) (s : State) : Word := s.regs.rb + o.signExtend 16

/-- A long index address (R95). -/
def rbLongAddr (o : Word) (s : State) : Word := s.regs.rb + o

/-- Push (R96): sp is pre-decremented. -/
def push (v : Word) (s : State) : Res State :=
  dataWrite (s.regs.sp - 1) v { s with regs := { s.regs with sp := s.regs.sp - 1 } }

/-- Pop (R96): sp is post-incremented. -/
def popWord (s : State) : Res (Word × State) :=
  andThen (dataRead s.regs.sp s) fun q =>
    .next (q.1, { q.2 with regs := { q.2.regs with sp := q.2.regs.sp + 1 } })

/-! ## Product register and multiplier -/

/-- ShiftedP (R186). -/
def shiftedP (s : State) : Acc36 :=
  let e : Acc36 := if s.regs.pUnsigned then s.regs.p.setWidth 36 else s.regs.p.signExtend 36
  match s.md.ps.toNat with
  | 0 => e
  | 1 => e.sshiftRight 1
  | 2 => e <<< 1
  | _ => e <<< 2

/-- AlignedShiftedP (R187). -/
def alignedShiftedP (s : State) : Acc36 := (shiftedP s).sshiftRight 16

/-- A multiplier input as the integer it stands for. -/
def factor (isSigned : Bool) (v : Word) : Int := if isSigned then v.toInt else v.toNat

/-- Loads y and x and multiplies them (R290): p and p_unsigned. -/
def multiply (ySigned xSigned : Bool) (y x : Word) (s : State) : State :=
  { s with regs := { s.regs with
    y := y
    x := x
    p := BitVec.ofInt 32 (factor ySigned y * factor xSigned x)
    pUnsigned := !ySigned && !xSigned } }

/-! ## Context switching, exceptions and returns -/

/-- The st0[11:2] bits the shadow saves (R68). -/
def st0Shadowed (s : State) : BitVec 10 := (st0Image s).extractLsb' 2 10

/-- a1 and b1 exchanged, PAGE and page_alt exchanged (R69, R70). -/
def contextSwap (s : State) : State :=
  { s with
    regs := { s.regs with a1 := s.regs.b1, b1 := s.regs.a1 }
    md := { s.md with page := s.shadow.pageAlt }
    shadow := { s.shadow with pageAlt := s.md.page } }

/-- ContextStore (R471) with the flags its callers set from the new a1 (R434, R461). DESIGN CHOICE, log 43, unsafe: a second
store before a restore is not refused but has the effect R470 gives it, that the first saved bits are overwritten. -/
def contextStore (s : State) : State :=
  let t := contextSwap { s with shadow := { s.shadow with
    st0 := st0Shadowed s, sat := s.md.sat, ps := s.md.ps, st2 := st2Low s } }
  { t with fl := setFlags36 t.regs.a1 t.fl }

/-- ContextRestore (R472). -/
def contextRestore (s : State) : State :=
  let t := contextSwap s
  let v := t.shadow.st0
  writeSt2Low t.shadow.st2 { t with
    fl := { z := v.getLsbD 9, m := v.getLsbD 8, n := v.getLsbD 7, v := v.getLsbD 6, c := v.getLsbD 5,
            e := v.getLsbD 4, l := v.getLsbD 3, r := v.getLsbD 2 }
    md := { t.md with im1 := v.getLsbD 1, im0 := v.getLsbD 0, sat := t.shadow.sat, ps := t.shadow.ps } }

/-- The vector of an event (R451). -/
def vectorOf : Event → Word
  | .trapBi => 0x0002
  | .int0 => 0x0006
  | .int1 => 0x000E
  | .int2 => 0x0016

/-- The context enable an interrupt entry uses, as sampled (R571). -/
def contextOn (e : Event) (s : State) : Bool :=
  match e with
  | .trapBi => false
  | .int0 => s.tm.icPrev.getLsbD 0
  | .int1 => s.tm.icPrev.getLsbD 1
  | .int2 => s.tm.icPrev.getLsbD 2

/-- A running repeat is put aside when a service routine starts (R420, D22). -/
def suspendRepeat (c : Control) (repc : Word) : Control :=
  if c.repActive then
    { c with repActive := false, repSuspended := true, repSaved := repc, repSavedAddr := c.repAddr, repResumed := false }
  else c

/-- Taking an exception (R461, R468): pc is pushed; then TRAP/BI saves it in dvm and sets in_trap, a maskable interrupt
clears IE and switches context if its ICx says so; pc goes to the vector. The emulation module sees the push as an
access before in_trap is set. -/
def takeException (e : Event) (s : State) : Res State :=
  andThen (push s.pc { s with ctl := suspendRepeat s.ctl s.regs.repc }) fun u =>
    match e with
    | .trapBi => .next { u with
      regs := { u.regs with dvm := s.pc }
      ctl := { u.ctl with inTrap := true }
      pc := vectorOf e }
    | _ =>
      let w : State := { u with md := { u.md with ie := false } }
      let x := if contextOn e s then contextStore w else w
      .next { x with pc := vectorOf e }

/-- Goes back to `target`; when a suspended repeat's instruction is there, the repeat resumes (R420, D22). -/
def returnTo (target : Word) (s : State) : State :=
  if s.ctl.repSuspended && target == s.ctl.repSavedAddr then
    { s with
      pc := target
      regs := { s.regs with repc := s.ctl.repSaved }
      ctl := { s.ctl with repActive := true, repAddr := target, repSuspended := false, repResumed := true } }
  else { s with pc := target }

/-- The end of a service routine by reti or retid (R412, R415, R467): in_trap is cleared if it is set, else IE is
set. `later` is true for retid, whose return completes after its delay cycles. -/
def endService (later : Bool) (s : State) : State :=
  if s.ctl.inTrap then
    { s with ctl := { s.ctl with
      inTrap := false, trapRet := !later, trapRetLater := later, stepArmed := s.ocem.mode0.getLsbD 15 } }
  else { s with md := { s.md with ie := true } }

/-- Starts a delayed return (R413, R415): the target is popped, pc is loaded after two cycles. -/
def startDelayedReturn (s : State) : Res State :=
  andThen (popWord s) fun q =>
    .next { q.2 with ctl := { q.2.ctl with
      delayTarget := q.1
      delayCount := 2
      delayFrom := if s.ctl.inTrap then none else some (s.pc - 1) } }

/-! ## Block repeat -/

/-- The innermost enclosing level's registers come back (R423, R427). -/
def popBlock (s : State) : State :=
  match s.ctl.bkSaved with
  | f :: t =>
    { s with
      regs := { s.regs with lc := f.lc }
      ctl := { s.ctl with bkStart := f.first, bkEnd := f.last, bkSaved := t } }
  | [] => s

/-- One level of block repeat ends: BC is decremented; with the outer level LP is cleared and lc stays, else the
enclosing level comes back (R423, R427). -/
def leaveBlock (s : State) : State :=
  if s.ctl.bc.toNat ≤ 1 then { s with ctl := { s.ctl with bc := 0, lp := false } }
  else
    let t := popBlock s
    { t with ctl := { t.ctl with bc := s.ctl.bc - 1 } }

/-- A clear of LP that waits for the level with BC = `n` acts: all levels are left (R426). -/
def applyLpClear (n : BitVec 3) (s : State) : State := if s.ctl.lpClear == some n then leaveAll s else s

/-- The running level ends, and a clear of LP that waits for it acts (R423, R426, R427, log 23). -/
def endBlock (s : State) : State := applyLpClear s.ctl.bc (leaveBlock s)

/-- A block repeat starts (R422): `n` is the operand, `last` the last address. Refused: a fifth level, a body of less
than two words, the last address of an enclosing level. DESIGN CHOICE, log 48, unsafe: loops that are not nested may share a
last address (R425 item 6, R576). -/
def enterBlock (n last : Word) (s : State) : Res State :=
  if 4 ≤ s.ctl.bc.toNat || decide (last.toNat ≤ s.pc.toNat) ||
      (s.ctl.lp && (last == s.ctl.bkEnd || s.ctl.bkSaved.any fun f => last == f.last)) then
    .refused (.sequence .blockShape)
  else
    .next { s with
      regs := { s.regs with lc := n }
      ctl := { s.ctl with
        bkSaved := if s.ctl.bc == 0 then s.ctl.bkSaved else ⟨s.ctl.bkStart, s.ctl.bkEnd, s.regs.lc⟩ :: s.ctl.bkSaved
        bkStart := s.pc
        bkEnd := last
        lp := true
        bc := s.ctl.bc + 1 } }

/-- A repeat starts (R420): `n` repetitions after the first. -/
def startRepeat (n : Word) (s : State) : State :=
  { s with
    regs := { s.regs with repc := n }
    ctl := { s.ctl with repActive := true, repAddr := s.pc, repResumed := false } }

end Sys2Proof.Machine
end

