-- ==== Sys2Proof/Machine/Operands.lean ====
section
/-! DEFINITION. The operand forms (spec/40_operands_and_flags.md R170 to R175, spec/41_alu.md R200,
spec/43_multiply.md R291, spec/44_bitfield.md R320). A meaning gives each form what to do with the value read. -/

namespace Sys2Proof.Machine

/-- `direct`: the word at PAGE ## d (R90, R175). -/
def withDirect (d : BitVec 8) (s : State) (k : Word → State → Res State) : Res State :=
  andThen (dataRead (directAddr d s) s) fun q => k q.1 q.2

/-- `(rN)`: the word at rN, which is post-modified (R92, R175). -/
def withInd (n : RN) (m : PostMod) (s : State) (k : Word → State → Res State) : Res State :=
  andThen (dataRead (ea n m s).1 (ea n m s).2) fun q => k q.1 q.2

/-- `[##direct]` (R91). -/
def withLongDirect (addr : Word) (s : State) (k : Word → State → Res State) : Res State :=
  andThen (dataRead addr s) fun q => k q.1 q.2

/-- `(rb+#offset7)` (R94). -/
def withRbShort (o : BitVec 7) (s : State) (k : Word → State → Res State) : Res State :=
  andThen (dataRead (rbShortAddr o s) s) fun q => k q.1 q.2

/-- `(rb+##offset)` (R95). -/
def withRbLong (o : Word) (s : State) (k : Word → State → Res State) : Res State :=
  andThen (dataRead (rbLongAddr o s) s) fun q => k q.1 q.2

/-- `register`, 16 bits, accumulator halves raw (R170). -/
def withReg (r : Reg) (s : State) (k : Word → State → Res State) : Res State :=
  k (readReg r s).1 (readReg r s).2

/-- `register` read by mov and push: accumulator halves through SatRead (R170, R171). -/
def withRegSat (r : Reg) (s : State) (k : Word → State → Res State) : Res State :=
  k (readRegSat r s).1 (readRegSat r s).2

/-- `register` as a 36-bit ALU operand: a0, a1 and the shifted p whole, every other register sign-extended (R200,
kind arith; R382). -/
def readWide (r : Reg) (s : State) : Acc36 × State :=
  match r with
  | .a0 => (s.regs.a0, s)
  | .a1 => (s.regs.a1, s)
  | .p => (shiftedP s, s)
  | _ => (sext36 (readReg r s).1, (readReg r s).2)

/-- The same with 16-bit registers zero-extended (R200, kind logic). -/
def readWideLogic (r : Reg) (s : State) : Acc36 × State :=
  match r with
  | .a0 => (s.regs.a0, s)
  | .a1 => (s.regs.a1, s)
  | .p => (shiftedP s, s)
  | _ => (zext36 (readReg r s).1, (readReg r s).2)

/-- The operand of addh and subh: the word in bits 31 to 16, sign-extended (R200, kind high). -/
def highOperand (v : Word) : Acc36 := sext36 v <<< 16

/-- An 8-bit unsigned immediate as a 36-bit operand (R174). -/
def zextShort (v : BitVec 8) : Acc36 := v.setWidth 36

/-- Y-RAM as rJ addresses it: eleven address bits (R93). -/
def yAddr (r : Word) : Word := 0xF800#16 + (r.extractLsb' 0 11).setWidth 16

/-- The Y operand of a dual access: the word of Y-RAM at rJ, read over YDB, rJ post-modified; a free value when rJ does
not point into Y-RAM (R93, U5, log 9). DESIGN CHOICE, log 49, unsafe: what the data breakpoints see of it is said at
`yRamRead`. -/
def readY (j : RJ) (mj : PostMod) (s : State) : Res (Word × State) :=
  let r := getRN (rnOfJ j) s
  let t := postMod (rnOfJ j) mj false s
  if r.extractLsb' 11 5 == 31#5 then .next (yRamRead (yAddr r) t)
  else .next (freeRead t)

/-- The X operand of a dual access: the word at rI, rI post-modified; a free value when rI points into Y-RAM (R93,
U5, log 9). -/
def readX (i : RI) (mi : PostMod) (s : State) : Res (Word × State) :=
  let r := getRN (rnOfI i) s
  let t := postMod (rnOfI i) mi false s
  if r.extractLsb' 11 5 == 31#5 then .next (freeRead t)
  else dataRead r t

/-- `(rJ), (rI)`: `k` is given the Y operand, then the X operand (R93, R291). -/
def withDual (j : RJ) (mj : PostMod) (i : RI) (mi : PostMod) (s : State) (k : Word → Word → State → Res State) :
    Res State :=
  andThen (readY j mj s) fun q => andThen (readX i mi q.2) fun u => k q.1 u.1 u.2

/-- A conditional instruction: with a false condition it changes nothing (R191). -/
def whenCond (c : Cond) (s : State) (r : Res State) : Res State := if condHolds c s then r else .next s

/-- Writes a register by a move and sets Z, M, N when it is in ac or bc (R340 points 2 and 3). -/
def moveToReg (r : Reg) (v : Word) (s : State) : State :=
  let t := writeReg r v s
  match accOfReg r with
  | some a => { t with fl := setFlagsMov (getAcc a t) t.fl }
  | none => t

/-- Writes a whole accumulator by a move and sets Z, M, N (R340). -/
def moveToAcc (a : Acc) (v : Acc36) (s : State) : State :=
  let t := setAcc a v s
  { t with fl := setFlagsMov v t.fl }

/-- Writes a 36-bit result with the flags `f` computes. -/
def writeResult (a : Acc) (v : Acc36) (f : Flags → Flags) (s : State) : State :=
  setAcc a v { s with fl := f s.fl }

end Sys2Proof.Machine
end

