-- ==== Sys2Proof/Machine/Alu.lean ====
section
/-! DEFINITION. Addition, subtraction, comparison and logic on aX: the ALM and ALU forms (spec/41_alu.md sections 1
to 3). -/

namespace Sys2Proof.Machine

/-- aX <- Add36(aX, b) (R201). -/
def doAdd (a : AccA) (b : Acc36) (s : State) : State :=
  let v := getAcc (accOfA a) s
  writeResult (accOfA a) (v + b) (setFlagsAdd v b) s

/-- aX <- Sub36(aX, b) (R204). -/
def doSub (a : AccA) (b : Acc36) (s : State) : State :=
  let v := getAcc (accOfA a) s
  writeResult (accOfA a) (v - b) (setFlagsSub v b) s

/-- Sub36(aX, b), flags only (R207). -/
def doCmp (a : AccA) (b : Acc36) (s : State) : State :=
  { s with fl := setFlagsSub (getAcc (accOfA a) s) b s.fl }

/-- aX <- aX or b (R210). -/
def doOr (a : AccA) (b : Acc36) (s : State) : State :=
  let v := getAcc (accOfA a) s ||| b
  writeResult (accOfA a) v (setFlags36 v) s

/-- aX <- aX xor b (R211). -/
def doXor (a : AccA) (b : Acc36) (s : State) : State :=
  let v := getAcc (accOfA a) s ^^^ b
  writeResult (accOfA a) v (setFlags36 v) s

/-- aX <- aX and b on 36 bits (R209). -/
def doAnd36 (a : AccA) (b : Acc36) (s : State) : State :=
  let v := getAcc (accOfA a) s &&& b
  writeResult (accOfA a) v (setFlags36 v) s

/-- aX[15:0] <- aX[15:0] and v, the rest cleared (R209). -/
def doAnd16 (a : AccA) (v : Word) (s : State) : State :=
  let out := zext36 (halfOf .lo (getAcc (accOfA a) s) &&& v)
  writeResult (accOfA a) out (setFlags36 out) s

/-- and with an 8-bit immediate: aX[15:8] stay, the flags are those of the 8-bit result (R209, D19). -/
def doAnd8 (a : AccA) (v : BitVec 8) (s : State) : State :=
  let acc := getAcc (accOfA a) s
  let low := acc.extractLsb' 0 8 &&& v
  writeResult (accOfA a) (zext36 (acc.extractLsb' 8 8 ++ low)) (setFlags36 (zextShort low)) s

/-- and with a register: on 36 bits with aX or p, else on 16 (R209). -/
def doAndReg (a : AccA) (r : Reg) (s : State) : State :=
  if isWide r then doAnd36 a (readWideLogic r s).1 (readWideLogic r s).2
  else doAnd16 a (readReg r s).1 (readReg r s).2

/-- or ALM direct (R210). -/
def execOrDirect (a : AccA) (d : BitVec 8) (s : State) : Res State :=
  withDirect d s fun v t => .next (doOr a (zext36 v) t)

/-- or ALM (rN) (R210). -/
def execOrInd (a : AccA) (n : RN) (m : PostMod) (s : State) : Res State :=
  withInd n m s fun v t => .next (doOr a (zext36 v) t)

/-- or ALM register (R210). -/
def execOrReg (a : AccA) (r : Reg) (s : State) : Res State :=
  checkOperand (ruleAlu36 a r) (.next (doOr a (readWideLogic r s).1 (readWideLogic r s).2))

/-- and ALM direct (R209). -/
def execAndDirect (a : AccA) (d : BitVec 8) (s : State) : Res State :=
  withDirect d s fun v t => .next (doAnd16 a v t)

/-- and ALM (rN) (R209). -/
def execAndInd (a : AccA) (n : RN) (m : PostMod) (s : State) : Res State :=
  withInd n m s fun v t => .next (doAnd16 a v t)

/-- and ALM register (R209). -/
def execAndReg (a : AccA) (r : Reg) (s : State) : Res State :=
  checkOperand (ruleAlu36 a r) (.next (doAndReg a r s))

/-- xor ALM direct (R211). -/
def execXorDirect (a : AccA) (d : BitVec 8) (s : State) : Res State :=
  withDirect d s fun v t => .next (doXor a (zext36 v) t)

/-- xor ALM (rN) (R211). -/
def execXorInd (a : AccA) (n : RN) (m : PostMod) (s : State) : Res State :=
  withInd n m s fun v t => .next (doXor a (zext36 v) t)

/-- xor ALM register (R211). -/
def execXorReg (a : AccA) (r : Reg) (s : State) : Res State :=
  checkOperand (ruleAlu36 a r) (.next (doXor a (readWideLogic r s).1 (readWideLogic r s).2))

/-- add ALM direct (R201). -/
def execAddDirect (a : AccA) (d : BitVec 8) (s : State) : Res State :=
  withDirect d s fun v t => .next (doAdd a (sext36 v) t)

/-- add ALM (rN) (R201). -/
def execAddInd (a : AccA) (n : RN) (m : PostMod) (s : State) : Res State :=
  withInd n m s fun v t => .next (doAdd a (sext36 v) t)

/-- add ALM register (R201). -/
def execAddReg (a : AccA) (r : Reg) (s : State) : Res State :=
  checkOperand (ruleAlu36 a r) (.next (doAdd a (readWide r s).1 (readWide r s).2))

/-- cmp ALM direct (R207). -/
def execCmpDirect (a : AccA) (d : BitVec 8) (s : State) : Res State :=
  withDirect d s fun v t => .next (doCmp a (sext36 v) t)

/-- cmp ALM (rN) (R207). -/
def execCmpInd (a : AccA) (n : RN) (m : PostMod) (s : State) : Res State :=
  withInd n m s fun v t => .next (doCmp a (sext36 v) t)

/-- cmp ALM register (R207). -/
def execCmpReg (a : AccA) (r : Reg) (s : State) : Res State :=
  checkOperand (ruleAlu36 a r) (.next (doCmp a (readWide r s).1 (readWide r s).2))

/-- sub ALM direct (R204). -/
def execSubDirect (a : AccA) (d : BitVec 8) (s : State) : Res State :=
  withDirect d s fun v t => .next (doSub a (sext36 v) t)

/-- sub ALM (rN) (R204). -/
def execSubInd (a : AccA) (n : RN) (m : PostMod) (s : State) : Res State :=
  withInd n m s fun v t => .next (doSub a (sext36 v) t)

/-- sub ALM register (R204). -/
def execSubReg (a : AccA) (r : Reg) (s : State) : Res State :=
  checkOperand (ruleAlu36 a r) (.next (doSub a (readWide r s).1 (readWide r s).2))

/-- addh ALM direct (R202). -/
def execAddhDirect (a : AccA) (d : BitVec 8) (s : State) : Res State :=
  withDirect d s fun v t => .next (doAdd a (highOperand v) t)

/-- addh ALM (rN) (R202). -/
def execAddhInd (a : AccA) (n : RN) (m : PostMod) (s : State) : Res State :=
  withInd n m s fun v t => .next (doAdd a (highOperand v) t)

/-- addh ALM register (R202). -/
def execAddhReg (a : AccA) (r : Reg) (s : State) : Res State :=
  checkOperand (ruleAlu16 a r) (withReg r s fun v t => .next (doAdd a (highOperand v) t))

/-- addl ALM direct (R203). -/
def execAddlDirect (a : AccA) (d : BitVec 8) (s : State) : Res State :=
  withDirect d s fun v t => .next (doAdd a (zext36 v) t)

/-- addl ALM (rN) (R203). -/
def execAddlInd (a : AccA) (n : RN) (m : PostMod) (s : State) : Res State :=
  withInd n m s fun v t => .next (doAdd a (zext36 v) t)

/-- addl ALM register (R203). -/
def execAddlReg (a : AccA) (r : Reg) (s : State) : Res State :=
  checkOperand (ruleAlu16 a r) (withReg r s fun v t => .next (doAdd a (zext36 v) t))

/-- subh ALM direct (R205). -/
def execSubhDirect (a : AccA) (d : BitVec 8) (s : State) : Res State :=
  withDirect d s fun v t => .next (doSub a (highOperand v) t)

/-- subh ALM (rN) (R205). -/
def execSubhInd (a : AccA) (n : RN) (m : PostMod) (s : State) : Res State :=
  withInd n m s fun v t => .next (doSub a (highOperand v) t)

/-- subh ALM register (R205). -/
def execSubhReg (a : AccA) (r : Reg) (s : State) : Res State :=
  checkOperand (ruleAlu16 a r) (withReg r s fun v t => .next (doSub a (highOperand v) t))

/-- subl ALM direct (R206). -/
def execSublDirect (a : AccA) (d : BitVec 8) (s : State) : Res State :=
  withDirect d s fun v t => .next (doSub a (zext36 v) t)

/-- subl ALM (rN) (R206). -/
def execSublInd (a : AccA) (n : RN) (m : PostMod) (s : State) : Res State :=
  withInd n m s fun v t => .next (doSub a (zext36 v) t)

/-- subl ALM register (R206). -/
def execSublReg (a : AccA) (r : Reg) (s : State) : Res State :=
  checkOperand (ruleAlu16 a r) (withReg r s fun v t => .next (doSub a (zext36 v) t))

/-- cmpu ALM direct (R208). -/
def execCmpuDirect (a : AccA) (d : BitVec 8) (s : State) : Res State :=
  withDirect d s fun v t => .next (doCmp a (zext36 v) t)

/-- cmpu ALM (rN) (R208). -/
def execCmpuInd (a : AccA) (n : RN) (m : PostMod) (s : State) : Res State :=
  withInd n m s fun v t => .next (doCmp a (zext36 v) t)

/-- cmpu ALM register (R208). -/
def execCmpuReg (a : AccA) (r : Reg) (s : State) : Res State :=
  checkOperand (ruleAlu16 a r) (withReg r s fun v t => .next (doCmp a (zext36 v) t))

/-- or ALU #short immediate (R210). -/
def execOrShort (a : AccA) (v : BitVec 8) (s : State) : Res State :=
  .next (doOr a (zextShort v) s)

/-- or ALU ##long immediate (R210). -/
def execOrLong (a : AccA) (v : Word) (s : State) : Res State :=
  .next (doOr a (zext36 v) s)

/-- or ALU (rb+#offset7) (R210). -/
def execOrRbShort (a : AccA) (o : BitVec 7) (s : State) : Res State :=
  withRbShort o s fun v t => .next (doOr a (zext36 v) t)

/-- or ALU (rb+##offset) (R210). -/
def execOrRbLong (a : AccA) (o : Word) (s : State) : Res State :=
  withRbLong o s fun v t => .next (doOr a (zext36 v) t)

/-- or ALU [##direct] (R210). -/
def execOrLongDirect (a : AccA) (addr : Word) (s : State) : Res State :=
  withLongDirect addr s fun v t => .next (doOr a (zext36 v) t)

/-- and ALU #short immediate (R209). -/
def execAndShort (a : AccA) (v : BitVec 8) (s : State) : Res State :=
  .next (doAnd8 a v s)

/-- and ALU ##long immediate (R209). -/
def execAndLong (a : AccA) (v : Word) (s : State) : Res State :=
  .next (doAnd16 a v s)

/-- and ALU (rb+#offset7) (R209). -/
def execAndRbShort (a : AccA) (o : BitVec 7) (s : State) : Res State :=
  withRbShort o s fun v t => .next (doAnd16 a v t)

/-- and ALU (rb+##offset) (R209). -/
def execAndRbLong (a : AccA) (o : Word) (s : State) : Res State :=
  withRbLong o s fun v t => .next (doAnd16 a v t)

/-- and ALU [##direct] (R209). -/
def execAndLongDirect (a : AccA) (addr : Word) (s : State) : Res State :=
  withLongDirect addr s fun v t => .next (doAnd16 a v t)

/-- xor ALU #short immediate (R211). -/
def execXorShort (a : AccA) (v : BitVec 8) (s : State) : Res State :=
  .next (doXor a (zextShort v) s)

/-- xor ALU ##long immediate (R211). -/
def execXorLong (a : AccA) (v : Word) (s : State) : Res State :=
  .next (doXor a (zext36 v) s)

/-- xor ALU (rb+#offset7) (R211). -/
def execXorRbShort (a : AccA) (o : BitVec 7) (s : State) : Res State :=
  withRbShort o s fun v t => .next (doXor a (zext36 v) t)

/-- xor ALU (rb+##offset) (R211). -/
def execXorRbLong (a : AccA) (o : Word) (s : State) : Res State :=
  withRbLong o s fun v t => .next (doXor a (zext36 v) t)

/-- xor ALU [##direct] (R211). -/
def execXorLongDirect (a : AccA) (addr : Word) (s : State) : Res State :=
  withLongDirect addr s fun v t => .next (doXor a (zext36 v) t)

/-- add ALU #short immediate (R201). -/
def execAddShort (a : AccA) (v : BitVec 8) (s : State) : Res State :=
  .next (doAdd a (zextShort v) s)

/-- add ALU ##long immediate (R201). -/
def execAddLong (a : AccA) (v : Word) (s : State) : Res State :=
  .next (doAdd a (sext36 v) s)

/-- add ALU (rb+#offset7) (R201). -/
def execAddRbShort (a : AccA) (o : BitVec 7) (s : State) : Res State :=
  withRbShort o s fun v t => .next (doAdd a (sext36 v) t)

/-- add ALU (rb+##offset) (R201). -/
def execAddRbLong (a : AccA) (o : Word) (s : State) : Res State :=
  withRbLong o s fun v t => .next (doAdd a (sext36 v) t)

/-- add ALU [##direct] (R201). -/
def execAddLongDirect (a : AccA) (addr : Word) (s : State) : Res State :=
  withLongDirect addr s fun v t => .next (doAdd a (sext36 v) t)

/-- cmp ALU #short immediate (R207). -/
def execCmpShort (a : AccA) (v : BitVec 8) (s : State) : Res State :=
  .next (doCmp a (zextShort v) s)

/-- cmp ALU ##long immediate (R207). -/
def execCmpLong (a : AccA) (v : Word) (s : State) : Res State :=
  .next (doCmp a (sext36 v) s)

/-- cmp ALU (rb+#offset7) (R207). -/
def execCmpRbShort (a : AccA) (o : BitVec 7) (s : State) : Res State :=
  withRbShort o s fun v t => .next (doCmp a (sext36 v) t)

/-- cmp ALU (rb+##offset) (R207). -/
def execCmpRbLong (a : AccA) (o : Word) (s : State) : Res State :=
  withRbLong o s fun v t => .next (doCmp a (sext36 v) t)

/-- cmp ALU [##direct] (R207). -/
def execCmpLongDirect (a : AccA) (addr : Word) (s : State) : Res State :=
  withLongDirect addr s fun v t => .next (doCmp a (sext36 v) t)

/-- sub ALU #short immediate (R204). -/
def execSubShort (a : AccA) (v : BitVec 8) (s : State) : Res State :=
  .next (doSub a (zextShort v) s)

/-- sub ALU ##long immediate (R204). -/
def execSubLong (a : AccA) (v : Word) (s : State) : Res State :=
  .next (doSub a (sext36 v) s)

/-- sub ALU (rb+#offset7) (R204). -/
def execSubRbShort (a : AccA) (o : BitVec 7) (s : State) : Res State :=
  withRbShort o s fun v t => .next (doSub a (sext36 v) t)

/-- sub ALU (rb+##offset) (R204). -/
def execSubRbLong (a : AccA) (o : Word) (s : State) : Res State :=
  withRbLong o s fun v t => .next (doSub a (sext36 v) t)

/-- sub ALU [##direct] (R204). -/
def execSubLongDirect (a : AccA) (addr : Word) (s : State) : Res State :=
  withLongDirect addr s fun v t => .next (doSub a (sext36 v) t)

end Sys2Proof.Machine
end

