-- ==== Sys2Proof/Machine/Moda.lean ====
section
/-! DEFINITION. moda and modb: the conditional functions on one accumulator (spec/42_shift.md sections 1 to 3). -/

namespace Sys2Proof.Machine

/-- dst <- Shift36(v, n) with its flags (R240 to R242). For an amount outside -36 to 36 the result, C and V are free
values (U7, log 7). -/
def shiftInto (dst : Acc) (v : Acc36) (n : Int) (s : State) : State :=
  if shiftInRange n then
    let r := shiftResult s.md.s v n
    writeResult dst r (setFlagsShift s.md.s r (shiftCarry v n) (shiftOverflow v n)) s
  else
    let k := s.freeCount
    let r := Config.freeAcc k
    writeResult dst r (setFlagsShift s.md.s r (Config.freeBit k) (Config.freeBit (k + 1)))
      { s with freeCount := k + 2 }

/-- An accumulator shifted by a fixed amount. -/
def doShift (acc : Acc) (n : Int) (s : State) : State := shiftInto acc (getAcc acc s) n s

/-- Rotate right through carry (R248). -/
def doRor (acc : Acc) (s : State) : State :=
  let v := getAcc acc s
  let r : Acc36 := BitVec.ofBool s.fl.c ++ v.extractLsb' 1 35
  writeResult acc r (setFlagsShift true r (v.getLsbD 0) false) s

/-- Rotate left through carry (R249). -/
def doRol (acc : Acc) (s : State) : State :=
  let v := getAcc acc s
  let r : Acc36 := v.extractLsb' 0 35 ++ BitVec.ofBool s.fl.c
  writeResult acc r (setFlagsShift true r v.msb false) s

/-- acc <- v with Z, M, N, E (R250, R251, R255, R258). -/
def doSet (acc : Acc) (v : Acc36) (s : State) : State := writeResult acc v (setFlags36 v) s

/-- acc <- Add36(a, b) (R253, R254, R256, R382). -/
def doAddTo (acc : Acc) (a b : Acc36) (s : State) : State := writeResult acc (a + b) (setFlagsAdd a b) s

/-- acc <- Sub36(a, b) (R252, R257). -/
def doSubTo (acc : Acc) (a b : Acc36) (s : State) : State := writeResult acc (a - b) (setFlagsSub a b) s

/-- The rounding constant (R188). -/
def roundBit : Acc36 := 0x000008000#36

/-- What copy reads: the accumulator itself or the other one (R258, D20). -/
def copyValue (a : AccA) (s : State) : Acc36 :=
  match Config.copySource, a with
  | .same, a => getAcc (accOfA a) s
  | .other, .a0 => s.regs.a1
  | .other, .a1 => s.regs.a0

/-- shr moda func,aX,cond (R244). -/
def execShrA (a : AccA) (cc : Cond) (s : State) : Res State :=
  whenCond cc s (.next (doShift (accOfA a) (-1) s))

/-- shr4 moda func,aX,cond (R245). -/
def execShr4A (a : AccA) (cc : Cond) (s : State) : Res State :=
  whenCond cc s (.next (doShift (accOfA a) (-4) s))

/-- shl moda func,aX,cond (R246). -/
def execShlA (a : AccA) (cc : Cond) (s : State) : Res State :=
  whenCond cc s (.next (doShift (accOfA a) 1 s))

/-- shl4 moda func,aX,cond (R247). -/
def execShl4A (a : AccA) (cc : Cond) (s : State) : Res State :=
  whenCond cc s (.next (doShift (accOfA a) 4 s))

/-- ror moda func,aX,cond (R248). -/
def execRorA (a : AccA) (cc : Cond) (s : State) : Res State :=
  whenCond cc s (.next (doRor (accOfA a) s))

/-- rol moda func,aX,cond (R249). -/
def execRolA (a : AccA) (cc : Cond) (s : State) : Res State :=
  whenCond cc s (.next (doRol (accOfA a) s))

/-- clr moda func,aX,cond (R250). -/
def execClrA (a : AccA) (cc : Cond) (s : State) : Res State :=
  whenCond cc s (.next (doSet (accOfA a) 0 s))

/-- not moda func,aX,cond (R251). -/
def execNotA (a : AccA) (cc : Cond) (s : State) : Res State :=
  whenCond cc s (.next (doSet (accOfA a) (~~~getAcc (accOfA a) s) s))

/-- neg moda func,aX,cond (R252). -/
def execNegA (a : AccA) (cc : Cond) (s : State) : Res State :=
  whenCond cc s (.next (doSubTo (accOfA a) 0 (getAcc (accOfA a) s) s))

/-- rnd moda func,aX,cond (R253). -/
def execRndA (a : AccA) (cc : Cond) (s : State) : Res State :=
  whenCond cc s (.next (doAddTo (accOfA a) (getAcc (accOfA a) s) roundBit s))

/-- pacr moda func,aX,cond (R254). -/
def execPacrA (a : AccA) (cc : Cond) (s : State) : Res State :=
  whenCond cc s (.next (doAddTo (accOfA a) (shiftedP s) roundBit s))

/-- clrr moda func,aX,cond (R255). -/
def execClrrA (a : AccA) (cc : Cond) (s : State) : Res State :=
  whenCond cc s (.next (doSet (accOfA a) roundBit s))

/-- inc moda func,aX,cond (R256). -/
def execIncA (a : AccA) (cc : Cond) (s : State) : Res State :=
  whenCond cc s (.next (doAddTo (accOfA a) (getAcc (accOfA a) s) 1 s))

/-- dec moda func,aX,cond (R257). -/
def execDecA (a : AccA) (cc : Cond) (s : State) : Res State :=
  whenCond cc s (.next (doSubTo (accOfA a) (getAcc (accOfA a) s) 1 s))

/-- copy moda func,aX,cond (R258). -/
def execCopyA (a : AccA) (cc : Cond) (s : State) : Res State :=
  whenCond cc s (.next (doSet (accOfA a) (copyValue a s) s))

/-- shr modb func,bX,cond (R261). -/
def execShrB (b : AccB) (cc : Cond) (s : State) : Res State :=
  whenCond cc s (.next (doShift (accOfB b) (-1) s))

/-- shr4 modb func,bX,cond (R262). -/
def execShr4B (b : AccB) (cc : Cond) (s : State) : Res State :=
  whenCond cc s (.next (doShift (accOfB b) (-4) s))

/-- shl modb func,bX,cond (R263). -/
def execShlB (b : AccB) (cc : Cond) (s : State) : Res State :=
  whenCond cc s (.next (doShift (accOfB b) 1 s))

/-- shl4 modb func,bX,cond (R264). -/
def execShl4B (b : AccB) (cc : Cond) (s : State) : Res State :=
  whenCond cc s (.next (doShift (accOfB b) 4 s))

/-- ror modb func,bX,cond (R265). -/
def execRorB (b : AccB) (cc : Cond) (s : State) : Res State :=
  whenCond cc s (.next (doRor (accOfB b) s))

/-- rol modb func,bX,cond (R266). -/
def execRolB (b : AccB) (cc : Cond) (s : State) : Res State :=
  whenCond cc s (.next (doRol (accOfB b) s))

/-- clr modb func,bX,cond (R267). -/
def execClrB (b : AccB) (cc : Cond) (s : State) : Res State :=
  whenCond cc s (.next (doSet (accOfB b) 0 s))

end Sys2Proof.Machine
end

