-- ==== Sys2Proof/Machine/Arith.lean ====
section
/-! DEFINITION. Division step, limit, extrema, shifts between accumulators, move-and-shift, exponent and normalize
(spec/41_alu.md section 4, spec/42_shift.md sections 4 and 5). -/

namespace Sys2Proof.Machine

/-- The division step (R214). -/
def doDivs (a : AccA) (d : Word) (s : State) : State :=
  let v := getAcc (accOfA a) s
  let t := v - (sext36 d <<< 15)
  let r := if t.msb then v <<< 1 else (t <<< 1) + 1
  writeResult (accOfA a) r (setFlags36 r) s

/-- The other a-accumulator (R10). -/
def otherA : AccA → AccA
  | .a0 => .a1
  | .a1 => .a0

/-- max, maxd, min: when `take`, aX <- v, mixp <- r0, M set; else M cleared; r0 is post-modified (R232 to R234). -/
def latchExtreme (take : Bool) (a : AccA) (v : Acc36) (m : PostMod) (s : State) : State :=
  postMod .r0 m false
    (if take then
      let t := setAcc (accOfA a) v s
      { t with regs := { t.regs with mixp := s.regs.r0 }, fl := { t.fl with m := true } }
    else { s with fl := { s.fl with m := false } })

/-- `x` beats `y` as a maximum: greater, or equal when `strict` is false (R232). -/
def beatsMax (strict : Bool) (x y : Acc36) : Bool :=
  if strict then decide (y.toInt < x.toInt) else decide (y.toInt ≤ x.toInt)

/-- One normalization step when N is 0 (R276). -/
def doNorm (a : AccA) (n : RN) (m : PostMod) (s : State) : State :=
  if s.fl.n then s
  else
    let v := getAcc (accOfA a) s
    let t := writeResult (accOfA a) (v <<< 1) (setFlagsShift false (v <<< 1) v.msb (v.msb != v.getLsbD 34)) s
    let u := postMod n m false t
    { u with fl := { u.fl with r := getRN n u == 0 } }

/-- A 16-bit operand of exp: bits 31 to 16, sign-extended (R275). -/
def expOperand (w : Word) : Acc36 := accOfHalf .hi w

/-- sv <- Exponent(v), and aX <- Exponent(v) in the aX form (R275). -/
def doExp (v : Acc36) (dst : Option AccA) (s : State) : State :=
  let t : State := { s with regs := { s.regs with sv := BitVec.ofInt 16 (exponent v) } }
  match dst with
  | some a => setAcc (accOfA a) (BitVec.ofInt 36 (exponent v)) t
  | none => t

/-- A register operand of exp: a0 and a1 whole, others as 16 bits (R275). -/
def expReg36 (r : Reg) (s : State) : Acc36 × State :=
  match r with
  | .a0 => (s.regs.a0, s)
  | .a1 => (s.regs.a1, s)
  | _ => (expOperand (readReg r s).1, (readReg r s).2)

/-- norm aX,(rN) (R276). -/
def execNorm (a : AccA) (n : RN) (m : PostMod) (s : State) : Res State :=
  .next (doNorm a n m s)

/-- divs direct,aX (R214). -/
def execDivs (a : AccA) (d : BitVec 8) (s : State) : Res State :=
  withDirect d s fun v t => .next (doDivs a v t)

/-- maxd aX,(r0),ge|gt (R233). -/
def execMaxd (a : AccA) (strict : Bool) (m : PostMod) (s : State) : Res State :=
  withLongDirect s.regs.r0 s fun v t =>
    .next (latchExtreme (beatsMax strict (sext36 v) (getAcc (accOfA a) t)) a (sext36 v) m t)

/-- max aX,(r0),ge|gt (R232). -/
def execMax (a : AccA) (strict : Bool) (m : PostMod) (s : State) : Res State :=
  let other := getAcc (accOfA (otherA a)) s
  .next (latchExtreme (beatsMax strict other (getAcc (accOfA a) s)) a other m s)

/-- min aX,(r0),le|lt (R234). -/
def execMin (a : AccA) (strict : Bool) (m : PostMod) (s : State) : Res State :=
  let other := getAcc (accOfA (otherA a)) s
  .next (latchExtreme (beatsMax strict (getAcc (accOfA a) s) other) a other m s)

/-- lim aX[,aX] (R215). -/
def execLim (src : AccA) (dst : AccA) (s : State) : Res State :=
  let v := getAcc (accOfA src) s
  .next (writeResult (accOfA dst) (limit32 v) (setFlagsLim v) s)

/-- shfc ab,ab,cond (R270). -/
def execShfc (src : Acc) (dst : Acc) (cc : Cond) (s : State) : Res State :=
  whenCond cc s (.next (shiftInto dst (getAcc src s) s.regs.sv.toInt s))

/-- shfi ab,ab,#imm6 (R271). -/
def execShfi (src : Acc) (dst : Acc) (v : BitVec 6) (s : State) : Res State :=
  .next (shiftInto dst (getAcc src s) v.toInt s)

/-- exp (rN),aX (R275); exp (rN),sv (R275). -/
def execExpInd (n : RN) (m : PostMod) (dst : Option AccA) (s : State) : Res State :=
  withInd n m s fun v t => .next (doExp (expOperand v) dst t)

/-- exp register,aX (R275); exp register,sv (R275). -/
def execExpReg (r : Reg) (dst : Option AccA) (s : State) : Res State :=
  checkOperand (ruleExp r) (.next (doExp (expReg36 r s).1 dst (expReg36 r s).2))

/-- exp bX,aX (R275); exp bX,sv (R275). -/
def execExpAcc (b : AccB) (dst : Option AccA) (s : State) : Res State :=
  .next (doExp (getAcc (accOfB b) s) dst s)

/-- movs register,ab (R272). -/
def execMovsReg (r : Reg) (acc : Acc) (s : State) : Res State :=
  checkOperand (rule16 r) (withReg r s fun v t => .next (shiftInto acc (sext36 v) t.regs.sv.toInt t))

/-- movs (rN),ab (R272). -/
def execMovsInd (n : RN) (m : PostMod) (acc : Acc) (s : State) : Res State :=
  withInd n m s fun v t => .next (shiftInto acc (sext36 v) t.regs.sv.toInt t)

/-- movs direct,ab (R272). -/
def execMovsDirect (d : BitVec 8) (acc : Acc) (s : State) : Res State :=
  withDirect d s fun v t => .next (shiftInto acc (sext36 v) t.regs.sv.toInt t)

/-- movsi rN*,ab,#imm5 (R273). -/
def execMovsi (n : RNStar) (acc : Acc) (v : BitVec 5) (s : State) : Res State :=
  .next (shiftInto acc (sext36 (regValue (regOfStar n) s)) v.toInt s)

end Sys2Proof.Machine
end

