-- ==== Sys2Proof/Machine/BitField.lean ====
section
/-! DEFINITION. Bit-field and 16-bit read-modify-write instructions and the bit tests (spec/44_bitfield.md). -/

namespace Sys2Proof.Machine

/-- `(rN)`: read, modify by `f`, write back to the same address, flags by `g` (R320, R321). -/
def albInd (f : Word → Word) (g : Word → Flags → Flags) (n : RN) (m : PostMod) (s : State) : Res State :=
  andThen (dataRead (ea n m s).1 (ea n m s).2) fun q =>
    andThen (dataWrite (ea n m s).1 (f q.1) q.2) fun t => .next { t with fl := g q.1 t.fl }

/-- `direct`: the same at PAGE ## d. -/
def albDirect (f : Word → Word) (g : Word → Flags → Flags) (d : BitVec 8) (s : State) : Res State :=
  andThen (dataRead (directAddr d s) s) fun q =>
    andThen (dataWrite (directAddr d s) (f q.1) q.2) fun t => .next { t with fl := g q.1 t.fl }

/-- `register`: the same on a register; st0 takes the result and no other flag update (R320, R331). -/
def albReg (f : Word → Word) (g : Word → Flags → Flags) (r : Reg) (s : State) : State :=
  let q := readReg r s
  let t := writeRegPart r (f q.1) q.2
  if r == .st0 then t else { t with fl := g q.1 t.fl }

/-- Flags by `g` from a word that is only read (R327 to R330). -/
def albFlags (g : Word → Flags → Flags) (v : Word) (s : State) : Res State := .next { s with fl := g v s.fl }

/-- Z of tst0 (R328). -/
def flagsTst0 (mask v : Word) (f : Flags) : Flags := { f with z := (v &&& mask) == 0 }

/-- Z of tst1 (R329). -/
def flagsTst1 (mask v : Word) (f : Flags) : Flags := { f with z := (~~~v &&& mask) == 0 }

/-- Z of tstb (R330). -/
def flagsTstb (k : BitVec 4) (v : Word) (f : Flags) : Flags := { f with z := v.getLsbD k.toNat }

/-- The mask aXl (R328). -/
def maskOf (a : AccA) (s : State) : Word := halfOf .lo (getAcc (accOfA a) s)

/-- tst0 ALM direct (R328). -/
def execTst0AccDirect (a : AccA) (d : BitVec 8) (s : State) : Res State :=
  withDirect d s (albFlags (flagsTst0 (maskOf a s)))

/-- tst0 ALM (rN) (R328). -/
def execTst0AccInd (a : AccA) (n : RN) (m : PostMod) (s : State) : Res State :=
  withInd n m s (albFlags (flagsTst0 (maskOf a s)))

/-- tst0 ALM register (R328). -/
def execTst0AccReg (a : AccA) (r : Reg) (s : State) : Res State :=
  checkOperand (ruleTstAcc a r) (withReg r s (albFlags (flagsTst0 (maskOf a s))))

/-- tst1 ALM direct (R329). -/
def execTst1AccDirect (a : AccA) (d : BitVec 8) (s : State) : Res State :=
  withDirect d s (albFlags (flagsTst1 (maskOf a s)))

/-- tst1 ALM (rN) (R329). -/
def execTst1AccInd (a : AccA) (n : RN) (m : PostMod) (s : State) : Res State :=
  withInd n m s (albFlags (flagsTst1 (maskOf a s)))

/-- tst1 ALM register (R329). -/
def execTst1AccReg (a : AccA) (r : Reg) (s : State) : Res State :=
  checkOperand (ruleTstAcc a r) (withReg r s (albFlags (flagsTst1 (maskOf a s))))

/-- set ALB ##long,(rN) (R322). -/
def execSetInd (v : Word) (n : RN) (m : PostMod) (s : State) : Res State :=
  albInd (· ||| v) (fun w => setFlags16 (w ||| v)) n m s

/-- set ALB ##long,register (R322). -/
def execSetReg (v : Word) (r : Reg) (s : State) : Res State :=
  checkOperand (rule16 r) (.next (albReg (· ||| v) (fun w => setFlags16 (w ||| v)) r s))

/-- set ALB ##long,direct (R322). -/
def execSetDirect (v : Word) (d : BitVec 8) (s : State) : Res State :=
  albDirect (· ||| v) (fun w => setFlags16 (w ||| v)) d s

/-- rst ALB ##long,(rN) (R323). -/
def execRstInd (v : Word) (n : RN) (m : PostMod) (s : State) : Res State :=
  albInd (· &&& ~~~v) (fun w => setFlags16 (w &&& ~~~v)) n m s

/-- rst ALB ##long,register (R323). -/
def execRstReg (v : Word) (r : Reg) (s : State) : Res State :=
  checkOperand (rule16 r) (.next (albReg (· &&& ~~~v) (fun w => setFlags16 (w &&& ~~~v)) r s))

/-- rst ALB ##long,direct (R323). -/
def execRstDirect (v : Word) (d : BitVec 8) (s : State) : Res State :=
  albDirect (· &&& ~~~v) (fun w => setFlags16 (w &&& ~~~v)) d s

/-- chng ALB ##long,(rN) (R324). -/
def execChngInd (v : Word) (n : RN) (m : PostMod) (s : State) : Res State :=
  albInd (· ^^^ v) (fun w => setFlags16 (w ^^^ v)) n m s

/-- chng ALB ##long,register (R324). -/
def execChngReg (v : Word) (r : Reg) (s : State) : Res State :=
  checkOperand (rule16 r) (.next (albReg (· ^^^ v) (fun w => setFlags16 (w ^^^ v)) r s))

/-- chng ALB ##long,direct (R324). -/
def execChngDirect (v : Word) (d : BitVec 8) (s : State) : Res State :=
  albDirect (· ^^^ v) (fun w => setFlags16 (w ^^^ v)) d s

/-- addv ALB ##long,(rN) (R325). -/
def execAddvInd (v : Word) (n : RN) (m : PostMod) (s : State) : Res State :=
  albInd (· + v) (fun w => setFlagsAddv w v) n m s

/-- addv ALB ##long,register (R325). -/
def execAddvReg (v : Word) (r : Reg) (s : State) : Res State :=
  checkOperand (ruleAddv r) (.next (albReg (· + v) (fun w => setFlagsAddv w v) r s))

/-- addv ALB ##long,direct (R325). -/
def execAddvDirect (v : Word) (d : BitVec 8) (s : State) : Res State :=
  albDirect (· + v) (fun w => setFlagsAddv w v) d s

/-- tst0 ALB ##long,(rN) (R328). -/
def execTst0LongInd (v : Word) (n : RN) (m : PostMod) (s : State) : Res State :=
  withInd n m s (albFlags (flagsTst0 v))

/-- tst0 ALB ##long,register (R328). -/
def execTst0LongReg (v : Word) (r : Reg) (s : State) : Res State :=
  checkOperand (rule16 r) (withReg r s (albFlags (flagsTst0 v)))

/-- tst0 ALB ##long,direct (R328). -/
def execTst0LongDirect (v : Word) (d : BitVec 8) (s : State) : Res State :=
  withDirect d s (albFlags (flagsTst0 v))

/-- tst1 ALB ##long,(rN) (R329). -/
def execTst1LongInd (v : Word) (n : RN) (m : PostMod) (s : State) : Res State :=
  withInd n m s (albFlags (flagsTst1 v))

/-- tst1 ALB ##long,register (R329). -/
def execTst1LongReg (v : Word) (r : Reg) (s : State) : Res State :=
  checkOperand (rule16 r) (withReg r s (albFlags (flagsTst1 v)))

/-- tst1 ALB ##long,direct (R329). -/
def execTst1LongDirect (v : Word) (d : BitVec 8) (s : State) : Res State :=
  withDirect d s (albFlags (flagsTst1 v))

/-- cmpv ALB ##long,(rN) (R327). -/
def execCmpvInd (v : Word) (n : RN) (m : PostMod) (s : State) : Res State :=
  withInd n m s (albFlags (fun w => setFlagsSubv w v))

/-- cmpv ALB ##long,register (R327). -/
def execCmpvReg (v : Word) (r : Reg) (s : State) : Res State :=
  checkOperand (rule16 r) (withReg r s (albFlags (fun w => setFlagsSubv w v)))

/-- cmpv ALB ##long,direct (R327). -/
def execCmpvDirect (v : Word) (d : BitVec 8) (s : State) : Res State :=
  withDirect d s (albFlags (fun w => setFlagsSubv w v))

/-- subv ALB ##long,(rN) (R326). -/
def execSubvInd (v : Word) (n : RN) (m : PostMod) (s : State) : Res State :=
  albInd (· - v) (fun w => setFlagsSubv w v) n m s

/-- subv ALB ##long,register (R326). -/
def execSubvReg (v : Word) (r : Reg) (s : State) : Res State :=
  checkOperand (ruleAddv r) (.next (albReg (· - v) (fun w => setFlagsSubv w v) r s))

/-- subv ALB ##long,direct (R326). -/
def execSubvDirect (v : Word) (d : BitVec 8) (s : State) : Res State :=
  albDirect (· - v) (fun w => setFlagsSubv w v) d s

/-- tstb (rN),#bit (R330). -/
def execTstbInd (n : RN) (m : PostMod) (k : BitVec 4) (s : State) : Res State :=
  withInd n m s (albFlags (flagsTstb k))

/-- tstb register,#bit (R330). -/
def execTstbReg (r : Reg) (k : BitVec 4) (s : State) : Res State :=
  checkOperand (rule16 r) (withReg r s (albFlags (flagsTstb k)))

/-- tstb direct,#bit (R330). -/
def execTstbDirect (d : BitVec 8) (k : BitVec 4) (s : State) : Res State :=
  withDirect d s (albFlags (flagsTstb k))

end Sys2Proof.Machine
end

