-- ==== Sys2Proof/Machine/Control.lean ====
section
/-! DEFINITION. Program control instructions (spec/46_control.md). pc stands past the instruction's words. -/

namespace Sys2Proof.Machine

/-- pc is pushed, then loaded (R403, R404, R406). -/
def doCall (target : Word) (s : State) : Res State := andThen (push s.pc s) fun t => .next { t with pc := target }

/-- pc is popped (R410). -/
def doReturn (s : State) : Res State := andThen (popWord s) fun q => .next (returnTo q.1 q.2)

/-- A relative target: the offset counts from the address after the instruction (R98, R402). -/
def relTarget (o : BitVec 7) (s : State) : Word := s.pc + o.signExtend 16

/-- rep register (R420). -/
def execRepReg (r : Reg) (s : State) : Res State :=
  checkOperand (rule16 r) (withReg r s fun v t => .next (startRepeat v t))

/-- rep #short (R420). -/
def execRepShort (v : BitVec 8) (s : State) : Res State :=
  .next (startRepeat (v.setWidth 16) s)

/-- bkrep #short,address (R422). -/
def execBkrepShort (v : BitVec 8) (addr : Word) (s : State) : Res State :=
  enterBlock (v.setWidth 16) addr s

/-- bkrep register,address (R422). -/
def execBkrepReg (r : Reg) (addr : Word) (s : State) : Res State :=
  checkOperand (rule16 r) (withReg r s fun v t => enterBlock v addr t)

/-- br address,cond (R401). -/
def execBr (addr : Word) (cc : Cond) (s : State) : Res State :=
  whenCond cc s (.next { s with pc := addr })

/-- brr offset,cond (R402). -/
def execBrr (o : BitVec 7) (cc : Cond) (s : State) : Res State :=
  whenCond cc s (.next { s with pc := relTarget o s })

/-- call address,cond (R403). -/
def execCall (addr : Word) (cc : Cond) (s : State) : Res State :=
  whenCond cc s (doCall addr s)

/-- callr offset,cond (R406). -/
def execCallr (o : BitVec 7) (cc : Cond) (s : State) : Res State :=
  whenCond cc s (doCall (relTarget o s) s)

/-- calla aX (R404). -/
def execCalla (a : AccA) (s : State) : Res State :=
  doCall (halfOf .lo (getAcc (accOfA a) s)) s

/-- ret cond (R410). -/
def execRet (cc : Cond) (s : State) : Res State :=
  whenCond cc s (doReturn s)

/-- reti cond[,context] (R412). -/
def execReti (cc : Cond) (ctx : Bool) (s : State) : Res State :=
  whenCond cc s (andThen (doReturn s) fun t =>
    let u := endService false t
    .next (if ctx then contextRestore u else u))

/-- cntx s|r (R434). -/
def execCntx (restore : Bool) (s : State) : Res State :=
  .next (if restore then contextRestore s else contextStore s)

/-- rets #short (R411). -/
def execRets (v : BitVec 8) (s : State) : Res State :=
  andThen (dataRead s.regs.sp s) fun q =>
    .next (returnTo q.1 { q.2 with regs := { q.2.regs with sp := q.2.regs.sp + 1 + v.setWidth 16 } })

/-- break; with no level running a no-op, as R427 says a model treats what the source does not describe (log 42). -/
def execBrk (s : State) : Res State :=
  .next (if s.ctl.bc == 0 then s else endBlock s)

/-- retd (R413). -/
def execRetd (s : State) : Res State :=
  startDelayedReturn s

/-- retid (R415). -/
def execRetid (s : State) : Res State :=
  andThen (startDelayedReturn s) fun t => .next (endService true t)

/-- nop (R430). -/
def execNop (s : State) : Res State :=
  .next s

/-- eint (R432). -/
def execEint (s : State) : Res State :=
  .next { s with md := { s.md with ie := true } }

/-- dint (R433). -/
def execDint (s : State) : Res State :=
  .next { s with md := { s.md with ie := false } }

/-- trap (R431). -/
def execTrap (s : State) : Res State :=
  if s.ctl.inTrap then .refused (.sequence .trapInTrap)
  else takeException .trapBi { s with ocem := ocemCause 15 s.ocem }

end Sys2Proof.Machine
end

