-- ==== Sys2Proof/Machine/Move.lean ====
section
/-! DEFINITION. Move, stack, swap, bank and load instructions (spec/45_move.md). -/

namespace Sys2Proof.Machine

/-- mov p, aX (R341). -/
def movePTo (dst : Reg) (s : State) : State :=
  match accOfReg dst with
  | some a => moveToAcc a (shiftedP s) s
  | none => s

/-- What the registers outside class REG hold (R361, R363, R364). -/
def specValue (r : SpecReg) (s : State) : Word :=
  match r with
  | .repc => s.regs.repc
  | .dvm => s.regs.dvm
  | .x => s.regs.x

/-- A half of an accumulator stored through SatRead at an address (R351, R359, R379, R381). -/
def storeHalf (acc : Acc) (h : Half) (addr : Word) (s : State) : Res State :=
  dataWrite addr (satRead acc h s).1 (satRead acc h s).2

/-- The write of movp to a register: Z, M, N, E when it is in ac (R375). -/
def movpToReg (r : Reg) (v : Word) (s : State) : State :=
  let t := writeReg r v s
  match accAOfReg r with
  | some a => { t with fl := setFlags36 (getAcc a t) t.fl }
  | none => t

/-- The write of pop: Z, M, N when the register is in ac (R390). -/
def popToReg (r : Reg) (v : Word) (s : State) : State :=
  let t := writeReg r v s
  match accAOfReg r with
  | some a => { t with fl := setFlagsMov (getAcc a t) t.fl }
  | none => t

/-- Two accumulators exchanged (R391). -/
def exchangeAcc (a b : Acc) (s : State) : State := setAcc a (getAcc b s) (setAcc b (getAcc a s) s)

/-- A chain of two transfers on old values: `src` to `mid`, `mid` to `dst` (R391). -/
def chainAcc (src mid dst : Acc) (s : State) : State := setAcc dst (getAcc mid s) (setAcc mid (getAcc src s) s)

/-- The transfers of a swap option (R391). -/
def swapAccs (o : SwapOpt) (s : State) : State :=
  match o with
  | .a0b0 => exchangeAcc .a0 .b0 s
  | .a0b1 => exchangeAcc .a0 .b1 s
  | .a1b0 => exchangeAcc .a1 .b0 s
  | .a1b1 => exchangeAcc .a1 .b1 s
  | .a0b0_a1b1 => exchangeAcc .a1 .b1 (exchangeAcc .a0 .b0 s)
  | .a0b1_a1b0 => exchangeAcc .a1 .b0 (exchangeAcc .a0 .b1 s)
  | .a0_b0_a1 => chainAcc .a0 .b0 .a1 s
  | .a0_b1_a1 => chainAcc .a0 .b1 .a1 s
  | .a1_b0_a0 => chainAcc .a1 .b0 .a0 s
  | .a1_b1_a0 => chainAcc .a1 .b1 .a0 s
  | .b0_a0_b1 => chainAcc .b0 .a0 .b1 s
  | .b0_a1_b1 => chainAcc .b0 .a1 .b1 s
  | .b1_a0_b0 => chainAcc .b1 .a0 .b0 s
  | .b1_a1_b0 => chainAcc .b1 .a1 .b0 s

/-- The a-accumulator whose new value the flags of a swap describe: the one that receives data, a0 when both do
(R391). -/
def swapFlagAcc (o : SwapOpt) : Acc :=
  match o with
  | .a0b0 | .a0b1 | .a0b0_a1b1 | .a0b1_a1b0 | .a1_b0_a0 | .a1_b1_a0 | .b0_a0_b1 | .b1_a0_b0 => .a0
  | .a1b0 | .a1b1 | .a0_b0_a1 | .a0_b1_a1 | .b0_a1_b1 | .b1_a1_b0 => .a1

/-- The registers after banke with list `k`: bit 3 r0, bit 2 r1, bit 1 r4, bit 0 cfgi (R383). -/
def bankExchange (k : BitVec 4) (g : Regs) : Regs :=
  { g with
    r0 := if k.getLsbD 3 then g.r0b else g.r0
    r0b := if k.getLsbD 3 then g.r0 else g.r0b
    r1 := if k.getLsbD 2 then g.r1b else g.r1
    r1b := if k.getLsbD 2 then g.r1 else g.r1b
    r4 := if k.getLsbD 1 then g.r4b else g.r4
    r4b := if k.getLsbD 1 then g.r4 else g.r4b
    cfgi := if k.getLsbD 0 then g.cfgib else g.cfgi
    cfgib := if k.getLsbD 0 then g.cfgi else g.cfgib }

/-- MODx of a configuration register replaced (R385). -/
def withModulo (v : BitVec 9) (cfg : Word) : Word := v ++ cfg.extractLsb' 0 7

/-- STEPx of a configuration register replaced (R386). -/
def withStep (v : BitVec 7) (cfg : Word) : Word := cfg.extractLsb' 7 9 ++ v

/-- mov register,register (R341). -/
def execMovRegReg (src : Reg) (dst : Reg) (s : State) : Res State :=
  checkOperand (ruleMovRegReg src dst)
    (if src == .p then .next (movePTo dst s) else withRegSat src s fun v t => .next (moveToReg dst v t))

/-- mov ab,ab (R342). -/
def execMovAccAcc (src : Acc) (dst : Acc) (s : State) : Res State :=
  .next (moveToAcc dst (getAcc src s) s)

/-- mov aXl|bXl,dvm (R360). -/
def execMovAccDvm (src : Acc) (s : State) : Res State :=
  let q := satRead src .lo s
  .next { q.2 with regs := { q.2.regs with dvm := q.1 } }

/-- mov aXl|bXl,x (R362). -/
def execMovAccX (src : Acc) (s : State) : Res State :=
  let q := satRead src .lo s
  .next { q.2 with regs := { q.2.regs with x := q.1 } }

/-- mov register,bX (R343). -/
def execMovRegB (r : Reg) (b : AccB) (s : State) : Res State :=
  checkOperand (rule16 r) (withRegSat r s fun v t => .next (moveToAcc (accOfB b) (sext36 v) t))

/-- mov register,mixp (R348). -/
def execMovRegMixp (r : Reg) (s : State) : Res State :=
  checkOperand (rule16 r) (withRegSat r s fun v t => .next { t with regs := { t.regs with mixp := v } })

/-- mov register,(rN) (R344). -/
def execMovRegInd (r : Reg) (n : RN) (m : PostMod) (s : State) : Res State :=
  checkOperand (ruleMovRegInd r n m)
    (withRegSat r s fun v t => dataWrite (ea n m t).1 v (ea n m t).2)

/-- mov mixp,register (R347). -/
def execMovMixpReg (r : Reg) (s : State) : Res State :=
  .next (moveToReg r s.regs.mixp s)

/-- mov repc,ab (R364); mov dvm,ab (R361); mov x,ab (R363). -/
def execMovSpecAcc (src : SpecReg) (acc : Acc) (s : State) : Res State :=
  .next (moveToAcc acc (sext36 (specValue src s)) s)

/-- mov icr,ab (R367). -/
def execMovIcrAcc (acc : Acc) (s : State) : Res State :=
  .next (moveToAcc acc (sext36 (icrImage s)) s)

/-- mov (rN),register (R345). -/
def execMovIndReg (n : RN) (m : PostMod) (r : Reg) (s : State) : Res State :=
  checkOperand (ruleMovIndReg n m r) (withInd n m s fun v t => .next (moveToReg r v t))

/-- mov (rN),bX (R346). -/
def execMovIndB (n : RN) (m : PostMod) (b : AccB) (s : State) : Res State :=
  withInd n m s fun v t => .next (moveToAcc (accOfB b) (sext36 v) t)

/-- mov (sp),register (R349). -/
def execMovSpReg (r : Reg) (s : State) : Res State :=
  withLongDirect s.regs.sp s fun v t => .next (moveToReg r v t)

/-- mov rN*,direct (R350). -/
def execMovRnDirect (n : RNStar) (d : BitVec 8) (s : State) : Res State :=
  dataWrite (directAddr d s) (regValue (regOfStar n) s) s

/-- mov aXl|aXh|bXl|bXh,direct (R351). -/
def execMovHalfDirect (acc : Acc) (h : Half) (d : BitVec 8) (s : State) : Res State :=
  storeHalf acc h (directAddr d s) s

/-- mov direct,rN* (R353). -/
def execMovDirectRn (d : BitVec 8) (n : RNStar) (s : State) : Res State :=
  withDirect d s fun v t => .next (writeReg (regOfStar n) v t)

/-- mov direct,ab (R354). -/
def execMovDirectAcc (d : BitVec 8) (acc : Acc) (s : State) : Res State :=
  withDirect d s fun v t => .next (moveToAcc acc (sext36 v) t)

/-- mov direct,aXl|aXh|bXl|bXh (R355). -/
def execMovDirectHalf (d : BitVec 8) (acc : Acc) (h : Half) (s : State) : Res State :=
  withDirect d s fun v t => .next (moveToAcc acc (accOfHalf h v) t)

/-- mov direct,aXh,eu (R356). -/
def execMovDirectHighEu (d : BitVec 8) (a : AccA) (s : State) : Res State :=
  withDirect d s fun v t =>
    .next (moveToAcc (accOfA a) ((getAcc (accOfA a) t).extractLsb' 32 4 ++ v ++ 0#16) t)

/-- mov direct,sv (R357). -/
def execMovDirectSv (d : BitVec 8) (s : State) : Res State :=
  withDirect d s fun v t => .next (writeReg .sv v t)

/-- mov sv,direct (R352). -/
def execMovSvDirect (d : BitVec 8) (s : State) : Res State :=
  dataWrite (directAddr d s) s.regs.sv s

/-- mov [##direct],aX (R358). -/
def execMovLongDirectA (addr : Word) (a : AccA) (s : State) : Res State :=
  withLongDirect addr s fun v t => .next (moveToAcc (accOfA a) (sext36 v) t)

/-- mov aXl,[##direct] (R359). -/
def execMovALongDirect (a : AccA) (addr : Word) (s : State) : Res State :=
  storeHalf (accOfA a) .lo addr s

/-- mov ##long,register (R368). -/
def execMovLongReg (v : Word) (r : Reg) (s : State) : Res State :=
  .next (moveToReg r v s)

/-- mov ##long,bX (R369). -/
def execMovLongB (v : Word) (b : AccB) (s : State) : Res State :=
  .next (moveToAcc (accOfB b) (sext36 v) s)

/-- mov #short,aXl (R370); mov #short,aXh (R371). -/
def execMovShortHalf (v : BitVec 8) (a : AccA) (h : Half) (s : State) : Res State :=
  match h with
  | .lo => .next (moveToAcc (accOfA a) (zextShort v) s)
  | .hi => .next (moveToAcc (accOfA a) (accOfHalf .hi (v.signExtend 16)) s)

/-- mov #short,rN* (R372). -/
def execMovShortRn (v : BitVec 8) (n : RNStar) (s : State) : Res State :=
  .next (writeReg (regOfStar n) (v.signExtend 16) s)

/-- mov #short,extX (R373). -/
def execMovShortExt (v : BitVec 8) (k : BitVec 2) (s : State) : Res State :=
  .next (extWrite k (v.signExtend 16) s)

/-- mov #short,sv (R374). -/
def execMovShortSv (v : BitVec 8) (s : State) : Res State :=
  .next (writeReg .sv (v.signExtend 16) s)

/-- mov register,icr (R365). -/
def execMovRegIcr (r : Reg) (s : State) : Res State :=
  checkOperand (rule16 r) (withRegSat r s fun v t => .next (writeIcr v (s.pc - 1) t))

/-- mov #imm5,icr (R366). -/
def execMovShortIcr (v : BitVec 5) (s : State) : Res State :=
  .next (writeIcr (v.setWidth 16) (s.pc - 1) s)

/-- mov (rb+#offset7),aX (R378). -/
def execMovRbShortA (o : BitVec 7) (a : AccA) (s : State) : Res State :=
  withRbShort o s fun v t => .next (moveToAcc (accOfA a) (sext36 v) t)

/-- mov aXl,(rb+#offset7) (R379). -/
def execMovARbShort (a : AccA) (o : BitVec 7) (s : State) : Res State :=
  storeHalf (accOfA a) .lo (rbShortAddr o s) s

/-- mov (rb+##offset),aX (R380). -/
def execMovRbLongA (o : Word) (a : AccA) (s : State) : Res State :=
  withRbLong o s fun v t => .next (moveToAcc (accOfA a) (sext36 v) t)

/-- mov aXl,(rb+##offset) (R381). -/
def execMovARbLong (a : AccA) (o : Word) (s : State) : Res State :=
  storeHalf (accOfA a) .lo (rbLongAddr o s) s

/-- movp (aXl),register (R375). -/
def execMovpAccReg (a : AccA) (r : Reg) (s : State) : Res State :=
  andThen (progRead (halfOf .lo (getAcc (accOfA a) s)) s) fun q => .next (movpToReg r q.1 q.2)

/-- movp (rN),(rI) (R376). -/
def execMovpIndInd (n : RN) (m : PostMod) (i : RI) (mi : PostMod) (s : State) : Res State :=
  checkOperand (ruleMovpInd n i)
    (andThen (progRead (getRN n s) s) fun q =>
      dataWrite (getRN (rnOfI i) s) q.1 (postMod (rnOfI i) mi false (postMod n m false q.2)))

/-- movr register,aX (R382). -/
def execMovrReg (r : Reg) (a : AccA) (s : State) : Res State :=
  checkOperand (ruleAlu36 a r) (.next (doAddTo (accOfA a) (readWide r s).1 roundBit (readWide r s).2))

/-- movr (rN),aX (R382). -/
def execMovrInd (n : RN) (m : PostMod) (a : AccA) (s : State) : Res State :=
  withInd n m s fun v t => .next (doAddTo (accOfA a) (sext36 v) roundBit t)

/-- push register (R388). -/
def execPushReg (r : Reg) (s : State) : Res State :=
  checkOperand (rulePush r) (withRegSat r s fun v t => push v t)

/-- push ##long (R389). -/
def execPushLong (v : Word) (s : State) : Res State :=
  push v s

/-- pop register (R390). -/
def execPop (r : Reg) (s : State) : Res State :=
  checkOperand (rulePop r) (andThen (popWord s) fun q => .next (popToReg r q.1 q.2))

/-- swap option (R391). -/
def execSwap (opt : SwapOpt) (s : State) : Res State :=
  let t := swapAccs opt s
  .next { t with fl := setFlags36 (getAcc (swapFlagAcc opt) t) t.fl }

/-- banke list (R383). -/
def execBanke (k : BitVec 4) (s : State) : Res State :=
  .next { s with regs := bankExchange k s.regs }

/-- movd (rI),(rJ) (R377). -/
def execMovd (i : RI) (mi : PostMod) (j : RJ) (mj : PostMod) (s : State) : Res State :=
  let pa := getRN (rnOfJ j) s
  if pa == s.pc - 1 || pa == s.pc then .refused .movdNearPc
  else
    andThen (dataRead (getRN (rnOfI i) s) (postMod (rnOfJ j) mj false (postMod (rnOfI i) mi false s))) fun q =>
      andThen (progWrite pa q.1 q.2) fun t => .next { t with ocem := { t.ocem with mvd := true } }

/-- modr (rN)[,dmod] (R392). -/
def execModr (n : RN) (m : PostMod) (dmod : Bool) (s : State) : Res State :=
  let t := postMod n m dmod s
  .next { t with fl := { t.fl with r := getRN n t == 0 } }

/-- load #imm8,page (R384). -/
def execLoadPage (v : BitVec 8) (s : State) : Res State :=
  .next { s with md := { s.md with page := v } }

/-- load #imm9,modi|modj (R385). -/
def execLoadMod (j : Bool) (v : BitVec 9) (s : State) : Res State :=
  .next (if j then { s with regs := { s.regs with cfgj := withModulo v s.regs.cfgj } }
    else { s with regs := { s.regs with cfgi := withModulo v s.regs.cfgi } })

/-- load #imm7,stepi|stepj (R386). -/
def execLoadStep (j : Bool) (v : BitVec 7) (s : State) : Res State :=
  .next (if j then { s with regs := { s.regs with cfgj := withStep v s.regs.cfgj } }
    else { s with regs := { s.regs with cfgi := withStep v s.regs.cfgi } })

/-- load #imm2,ps (R387). -/
def execLoadPs (v : BitVec 2) (s : State) : Res State :=
  .next { s with md := { s.md with ps := v } }

end Sys2Proof.Machine
end

