-- ==== Sys2Proof/Machine/Multiply.lean ====
section
/-! DEFINITION. Multiply and multiply-accumulate (spec/43_multiply.md). -/

namespace Sys2Proof.Machine

/-- aX <- Add36(aX, b), b the previous product, then y, x and the new product (R295, R299). -/
def doMac (a : AccA) (b : Acc36) (ySigned xSigned : Bool) (y x : Word) (s : State) : State :=
  let v := getAcc (accOfA a) s
  multiply ySigned xSigned y x (writeResult (accOfA a) (v + b) (setFlagsAdd v b) s)

/-- aX <- Sub36(aX, previous product), then y, x and the new product (R301). -/
def doMsu (a : AccA) (y x : Word) (s : State) : State :=
  let v := getAcc (accOfA a) s
  multiply true true y x (writeResult (accOfA a) (v - shiftedP s) (setFlagsSub v (shiftedP s)) s)

/-- msu ALM direct (R301). -/
def execMsuDirect (a : AccA) (d : BitVec 8) (s : State) : Res State :=
  withDirect d s fun v t => .next (doMsu a t.regs.y v t)

/-- msu ALM (rN) (R301). -/
def execMsuInd (a : AccA) (n : RN) (m : PostMod) (s : State) : Res State :=
  withInd n m s fun v t => .next (doMsu a t.regs.y v t)

/-- msu ALM register (R301). -/
def execMsuReg (a : AccA) (r : Reg) (s : State) : Res State :=
  checkOperand (rule16 r) (withReg r s fun v t => .next (doMsu a t.regs.y v t))

/-- sqr ALM direct (R302). -/
def execSqrDirect (d : BitVec 8) (s : State) : Res State :=
  withDirect d s fun v t => .next (multiply true true v v t)

/-- sqr ALM (rN) (R302). -/
def execSqrInd (n : RN) (m : PostMod) (s : State) : Res State :=
  withInd n m s fun v t => .next (multiply true true v v t)

/-- sqr ALM register (R302). -/
def execSqrReg (r : Reg) (s : State) : Res State :=
  checkOperand (rule16 r) (withReg r s fun v t => .next (multiply true true v v t))

/-- sqra ALM direct (R303). -/
def execSqraDirect (a : AccA) (d : BitVec 8) (s : State) : Res State :=
  withDirect d s fun v t => .next (doMac a (shiftedP t) true true v v t)

/-- sqra ALM (rN) (R303). -/
def execSqraInd (a : AccA) (n : RN) (m : PostMod) (s : State) : Res State :=
  withInd n m s fun v t => .next (doMac a (shiftedP t) true true v v t)

/-- sqra ALM register (R303). -/
def execSqraReg (a : AccA) (r : Reg) (s : State) : Res State :=
  checkOperand (rule16 r) (withReg r s fun v t => .next (doMac a (shiftedP t) true true v v t))

/-- mpy MUL y,(rN) (R292). -/
def execMpyInd (n : RN) (m : PostMod) (s : State) : Res State :=
  withInd n m s fun x t => .next (multiply true true t.regs.y x t)

/-- mpy MUL y,register (R292). -/
def execMpyReg (r : Reg) (s : State) : Res State :=
  checkOperand (rule16 r) (withReg r s fun x t => .next (multiply true true t.regs.y x t))

/-- mpy MUL (rJ),(rI) (R292). -/
def execMpyDual (j : RJ) (mj : PostMod) (i : RI) (mi : PostMod) (s : State) : Res State :=
  withDual j mj i mi s fun y x t => .next (multiply true true y x t)

/-- mpy MUL (rN),##long (R292). -/
def execMpyLong (n : RN) (m : PostMod) (v : Word) (s : State) : Res State :=
  withInd n m s fun y t => .next (multiply true true y v t)

/-- mpysu MUL y,(rN) (R294). -/
def execMpysuInd (n : RN) (m : PostMod) (s : State) : Res State :=
  withInd n m s fun x t => .next (multiply true false t.regs.y x t)

/-- mpysu MUL y,register (R294). -/
def execMpysuReg (r : Reg) (s : State) : Res State :=
  checkOperand (rule16 r) (withReg r s fun x t => .next (multiply true false t.regs.y x t))

/-- mpysu MUL (rJ),(rI) (R294). -/
def execMpysuDual (j : RJ) (mj : PostMod) (i : RI) (mi : PostMod) (s : State) : Res State :=
  withDual j mj i mi s fun y x t => .next (multiply true false y x t)

/-- mpysu MUL (rN),##long (R294). -/
def execMpysuLong (n : RN) (m : PostMod) (v : Word) (s : State) : Res State :=
  withInd n m s fun y t => .next (multiply true false y v t)

/-- mac MUL y,(rN) (R295). -/
def execMacInd (a : AccA) (n : RN) (m : PostMod) (s : State) : Res State :=
  withInd n m s fun x t => .next (doMac a (shiftedP t) true true t.regs.y x t)

/-- mac MUL y,register (R295). -/
def execMacReg (a : AccA) (r : Reg) (s : State) : Res State :=
  checkOperand (rule16 r) (withReg r s fun x t => .next (doMac a (shiftedP t) true true t.regs.y x t))

/-- mac MUL (rJ),(rI) (R295). -/
def execMacDual (a : AccA) (j : RJ) (mj : PostMod) (i : RI) (mi : PostMod) (s : State) : Res State :=
  withDual j mj i mi s fun y x t => .next (doMac a (shiftedP t) true true y x t)

/-- mac MUL (rN),##long (R295). -/
def execMacLong (a : AccA) (n : RN) (m : PostMod) (v : Word) (s : State) : Res State :=
  withInd n m s fun y t => .next (doMac a (shiftedP t) true true y v t)

/-- macus MUL y,(rN) (R297). -/
def execMacusInd (a : AccA) (n : RN) (m : PostMod) (s : State) : Res State :=
  withInd n m s fun x t => .next (doMac a (shiftedP t) false true t.regs.y x t)

/-- macus MUL y,register (R297). -/
def execMacusReg (a : AccA) (r : Reg) (s : State) : Res State :=
  checkOperand (rule16 r) (withReg r s fun x t => .next (doMac a (shiftedP t) false true t.regs.y x t))

/-- macus MUL (rJ),(rI) (R297). -/
def execMacusDual (a : AccA) (j : RJ) (mj : PostMod) (i : RI) (mi : PostMod) (s : State) : Res State :=
  withDual j mj i mi s fun y x t => .next (doMac a (shiftedP t) false true y x t)

/-- macus MUL (rN),##long (R297). -/
def execMacusLong (a : AccA) (n : RN) (m : PostMod) (v : Word) (s : State) : Res State :=
  withInd n m s fun y t => .next (doMac a (shiftedP t) false true y v t)

/-- maa MUL y,(rN) (R299). -/
def execMaaInd (a : AccA) (n : RN) (m : PostMod) (s : State) : Res State :=
  withInd n m s fun x t => .next (doMac a (alignedShiftedP t) true true t.regs.y x t)

/-- maa MUL y,register (R299). -/
def execMaaReg (a : AccA) (r : Reg) (s : State) : Res State :=
  checkOperand (rule16 r) (withReg r s fun x t => .next (doMac a (alignedShiftedP t) true true t.regs.y x t))

/-- maa MUL (rJ),(rI) (R299). -/
def execMaaDual (a : AccA) (j : RJ) (mj : PostMod) (i : RI) (mi : PostMod) (s : State) : Res State :=
  withDual j mj i mi s fun y x t => .next (doMac a (alignedShiftedP t) true true y x t)

/-- maa MUL (rN),##long (R299). -/
def execMaaLong (a : AccA) (n : RN) (m : PostMod) (v : Word) (s : State) : Res State :=
  withInd n m s fun y t => .next (doMac a (alignedShiftedP t) true true y v t)

/-- macuu MUL y,(rN) (R298). -/
def execMacuuInd (a : AccA) (n : RN) (m : PostMod) (s : State) : Res State :=
  withInd n m s fun x t => .next (doMac a (shiftedP t) false false t.regs.y x t)

/-- macuu MUL y,register (R298). -/
def execMacuuReg (a : AccA) (r : Reg) (s : State) : Res State :=
  checkOperand (rule16 r) (withReg r s fun x t => .next (doMac a (shiftedP t) false false t.regs.y x t))

/-- macuu MUL (rJ),(rI) (R298). -/
def execMacuuDual (a : AccA) (j : RJ) (mj : PostMod) (i : RI) (mi : PostMod) (s : State) : Res State :=
  withDual j mj i mi s fun y x t => .next (doMac a (shiftedP t) false false y x t)

/-- macuu MUL (rN),##long (R298). -/
def execMacuuLong (a : AccA) (n : RN) (m : PostMod) (v : Word) (s : State) : Res State :=
  withInd n m s fun y t => .next (doMac a (shiftedP t) false false y v t)

/-- macsu MUL y,(rN) (R296). -/
def execMacsuInd (a : AccA) (n : RN) (m : PostMod) (s : State) : Res State :=
  withInd n m s fun x t => .next (doMac a (shiftedP t) true false t.regs.y x t)

/-- macsu MUL y,register (R296). -/
def execMacsuReg (a : AccA) (r : Reg) (s : State) : Res State :=
  checkOperand (rule16 r) (withReg r s fun x t => .next (doMac a (shiftedP t) true false t.regs.y x t))

/-- macsu MUL (rJ),(rI) (R296). -/
def execMacsuDual (a : AccA) (j : RJ) (mj : PostMod) (i : RI) (mi : PostMod) (s : State) : Res State :=
  withDual j mj i mi s fun y x t => .next (doMac a (shiftedP t) true false y x t)

/-- macsu MUL (rN),##long (R296). -/
def execMacsuLong (a : AccA) (n : RN) (m : PostMod) (v : Word) (s : State) : Res State :=
  withInd n m s fun y t => .next (doMac a (shiftedP t) true false y v t)

/-- maasu MUL y,(rN) (R300). -/
def execMaasuInd (a : AccA) (n : RN) (m : PostMod) (s : State) : Res State :=
  withInd n m s fun x t => .next (doMac a (alignedShiftedP t) true false t.regs.y x t)

/-- maasu MUL y,register (R300). -/
def execMaasuReg (a : AccA) (r : Reg) (s : State) : Res State :=
  checkOperand (rule16 r) (withReg r s fun x t => .next (doMac a (alignedShiftedP t) true false t.regs.y x t))

/-- maasu MUL (rJ),(rI) (R300). -/
def execMaasuDual (a : AccA) (j : RJ) (mj : PostMod) (i : RI) (mi : PostMod) (s : State) : Res State :=
  withDual j mj i mi s fun y x t => .next (doMac a (alignedShiftedP t) true false y x t)

/-- maasu MUL (rN),##long (R300). -/
def execMaasuLong (a : AccA) (n : RN) (m : PostMod) (v : Word) (s : State) : Res State :=
  withInd n m s fun y t => .next (doMac a (alignedShiftedP t) true false y v t)

/-- mpy MUL y,direct (R292). -/
def execMpyDirect (d : BitVec 8) (s : State) : Res State :=
  withDirect d s fun x t => .next (multiply true true t.regs.y x t)

/-- mac MUL y,direct (R295). -/
def execMacDirect (a : AccA) (d : BitVec 8) (s : State) : Res State :=
  withDirect d s fun x t => .next (doMac a (shiftedP t) true true t.regs.y x t)

/-- maa MUL y,direct (R299). -/
def execMaaDirect (a : AccA) (d : BitVec 8) (s : State) : Res State :=
  withDirect d s fun x t => .next (doMac a (alignedShiftedP t) true true t.regs.y x t)

/-- macsu MUL y,direct (R296). -/
def execMacsuDirect (a : AccA) (d : BitVec 8) (s : State) : Res State :=
  withDirect d s fun x t => .next (doMac a (shiftedP t) true false t.regs.y x t)

/-- mpyi y,#short (R293). -/
def execMpyi (v : BitVec 8) (s : State) : Res State :=
  .next (multiply true true s.regs.y (v.signExtend 16) s)

/-- msu (rN),##long,aX (R301). -/
def execMsuLong (a : AccA) (n : RN) (m : PostMod) (v : Word) (s : State) : Res State :=
  withInd n m s fun y t => .next (doMsu a y v t)

/-- msu (rJ),(rI),aX (R301). -/
def execMsuDual (a : AccA) (j : RJ) (mj : PostMod) (i : RI) (mi : PostMod) (s : State) : Res State :=
  withDual j mj i mi s fun y x t => .next (doMsu a y x t)

end Sys2Proof.Machine
end

