-- ==== Sys2Proof/Machine/Dispatch.lean ====
section
/-! DEFINITION. One arm for each constructor of `Instr`, each a call of its own meaning. `exec` runs an instruction
whose words the pc has already passed (spec/10_state.md R32). -/

namespace Sys2Proof.Machine

def exec (i : Instr) (s : State) : Host.Outcome State Fault Refusal :=
  match i with
  | .orDirect a d => Sys2Proof.Machine.execOrDirect a d s
  | .orInd a n m => Sys2Proof.Machine.execOrInd a n m s
  | .orReg a r => Sys2Proof.Machine.execOrReg a r s
  | .andDirect a d => Sys2Proof.Machine.execAndDirect a d s
  | .andInd a n m => Sys2Proof.Machine.execAndInd a n m s
  | .andReg a r => Sys2Proof.Machine.execAndReg a r s
  | .xorDirect a d => Sys2Proof.Machine.execXorDirect a d s
  | .xorInd a n m => Sys2Proof.Machine.execXorInd a n m s
  | .xorReg a r => Sys2Proof.Machine.execXorReg a r s
  | .addDirect a d => Sys2Proof.Machine.execAddDirect a d s
  | .addInd a n m => Sys2Proof.Machine.execAddInd a n m s
  | .addReg a r => Sys2Proof.Machine.execAddReg a r s
  | .tst0AccDirect a d => Sys2Proof.Machine.execTst0AccDirect a d s
  | .tst0AccInd a n m => Sys2Proof.Machine.execTst0AccInd a n m s
  | .tst0AccReg a r => Sys2Proof.Machine.execTst0AccReg a r s
  | .tst1AccDirect a d => Sys2Proof.Machine.execTst1AccDirect a d s
  | .tst1AccInd a n m => Sys2Proof.Machine.execTst1AccInd a n m s
  | .tst1AccReg a r => Sys2Proof.Machine.execTst1AccReg a r s
  | .cmpDirect a d => Sys2Proof.Machine.execCmpDirect a d s
  | .cmpInd a n m => Sys2Proof.Machine.execCmpInd a n m s
  | .cmpReg a r => Sys2Proof.Machine.execCmpReg a r s
  | .subDirect a d => Sys2Proof.Machine.execSubDirect a d s
  | .subInd a n m => Sys2Proof.Machine.execSubInd a n m s
  | .subReg a r => Sys2Proof.Machine.execSubReg a r s
  | .msuDirect a d => Sys2Proof.Machine.execMsuDirect a d s
  | .msuInd a n m => Sys2Proof.Machine.execMsuInd a n m s
  | .msuReg a r => Sys2Proof.Machine.execMsuReg a r s
  | .addhDirect a d => Sys2Proof.Machine.execAddhDirect a d s
  | .addhInd a n m => Sys2Proof.Machine.execAddhInd a n m s
  | .addhReg a r => Sys2Proof.Machine.execAddhReg a r s
  | .addlDirect a d => Sys2Proof.Machine.execAddlDirect a d s
  | .addlInd a n m => Sys2Proof.Machine.execAddlInd a n m s
  | .addlReg a r => Sys2Proof.Machine.execAddlReg a r s
  | .subhDirect a d => Sys2Proof.Machine.execSubhDirect a d s
  | .subhInd a n m => Sys2Proof.Machine.execSubhInd a n m s
  | .subhReg a r => Sys2Proof.Machine.execSubhReg a r s
  | .sublDirect a d => Sys2Proof.Machine.execSublDirect a d s
  | .sublInd a n m => Sys2Proof.Machine.execSublInd a n m s
  | .sublReg a r => Sys2Proof.Machine.execSublReg a r s
  | .sqrDirect d => Sys2Proof.Machine.execSqrDirect d s
  | .sqrInd n m => Sys2Proof.Machine.execSqrInd n m s
  | .sqrReg r => Sys2Proof.Machine.execSqrReg r s
  | .sqraDirect a d => Sys2Proof.Machine.execSqraDirect a d s
  | .sqraInd a n m => Sys2Proof.Machine.execSqraInd a n m s
  | .sqraReg a r => Sys2Proof.Machine.execSqraReg a r s
  | .cmpuDirect a d => Sys2Proof.Machine.execCmpuDirect a d s
  | .cmpuInd a n m => Sys2Proof.Machine.execCmpuInd a n m s
  | .cmpuReg a r => Sys2Proof.Machine.execCmpuReg a r s
  | .orShort a v => Sys2Proof.Machine.execOrShort a v s
  | .orLong a v => Sys2Proof.Machine.execOrLong a v s
  | .orRbShort a o => Sys2Proof.Machine.execOrRbShort a o s
  | .orRbLong a o => Sys2Proof.Machine.execOrRbLong a o s
  | .orLongDirect a addr => Sys2Proof.Machine.execOrLongDirect a addr s
  | .andShort a v => Sys2Proof.Machine.execAndShort a v s
  | .andLong a v => Sys2Proof.Machine.execAndLong a v s
  | .andRbShort a o => Sys2Proof.Machine.execAndRbShort a o s
  | .andRbLong a o => Sys2Proof.Machine.execAndRbLong a o s
  | .andLongDirect a addr => Sys2Proof.Machine.execAndLongDirect a addr s
  | .xorShort a v => Sys2Proof.Machine.execXorShort a v s
  | .xorLong a v => Sys2Proof.Machine.execXorLong a v s
  | .xorRbShort a o => Sys2Proof.Machine.execXorRbShort a o s
  | .xorRbLong a o => Sys2Proof.Machine.execXorRbLong a o s
  | .xorLongDirect a addr => Sys2Proof.Machine.execXorLongDirect a addr s
  | .addShort a v => Sys2Proof.Machine.execAddShort a v s
  | .addLong a v => Sys2Proof.Machine.execAddLong a v s
  | .addRbShort a o => Sys2Proof.Machine.execAddRbShort a o s
  | .addRbLong a o => Sys2Proof.Machine.execAddRbLong a o s
  | .addLongDirect a addr => Sys2Proof.Machine.execAddLongDirect a addr s
  | .cmpShort a v => Sys2Proof.Machine.execCmpShort a v s
  | .cmpLong a v => Sys2Proof.Machine.execCmpLong a v s
  | .cmpRbShort a o => Sys2Proof.Machine.execCmpRbShort a o s
  | .cmpRbLong a o => Sys2Proof.Machine.execCmpRbLong a o s
  | .cmpLongDirect a addr => Sys2Proof.Machine.execCmpLongDirect a addr s
  | .subShort a v => Sys2Proof.Machine.execSubShort a v s
  | .subLong a v => Sys2Proof.Machine.execSubLong a v s
  | .subRbShort a o => Sys2Proof.Machine.execSubRbShort a o s
  | .subRbLong a o => Sys2Proof.Machine.execSubRbLong a o s
  | .subLongDirect a addr => Sys2Proof.Machine.execSubLongDirect a addr s
  | .shrA a cc => Sys2Proof.Machine.execShrA a cc s
  | .shr4A a cc => Sys2Proof.Machine.execShr4A a cc s
  | .shlA a cc => Sys2Proof.Machine.execShlA a cc s
  | .shl4A a cc => Sys2Proof.Machine.execShl4A a cc s
  | .rorA a cc => Sys2Proof.Machine.execRorA a cc s
  | .rolA a cc => Sys2Proof.Machine.execRolA a cc s
  | .clrA a cc => Sys2Proof.Machine.execClrA a cc s
  | .notA a cc => Sys2Proof.Machine.execNotA a cc s
  | .negA a cc => Sys2Proof.Machine.execNegA a cc s
  | .rndA a cc => Sys2Proof.Machine.execRndA a cc s
  | .pacrA a cc => Sys2Proof.Machine.execPacrA a cc s
  | .clrrA a cc => Sys2Proof.Machine.execClrrA a cc s
  | .incA a cc => Sys2Proof.Machine.execIncA a cc s
  | .decA a cc => Sys2Proof.Machine.execDecA a cc s
  | .copyA a cc => Sys2Proof.Machine.execCopyA a cc s
  | .shrB b cc => Sys2Proof.Machine.execShrB b cc s
  | .shr4B b cc => Sys2Proof.Machine.execShr4B b cc s
  | .shlB b cc => Sys2Proof.Machine.execShlB b cc s
  | .shl4B b cc => Sys2Proof.Machine.execShl4B b cc s
  | .rorB b cc => Sys2Proof.Machine.execRorB b cc s
  | .rolB b cc => Sys2Proof.Machine.execRolB b cc s
  | .clrB b cc => Sys2Proof.Machine.execClrB b cc s
  | .norm a n m => Sys2Proof.Machine.execNorm a n m s
  | .divs a d => Sys2Proof.Machine.execDivs a d s
  | .setInd v n m => Sys2Proof.Machine.execSetInd v n m s
  | .setReg v r => Sys2Proof.Machine.execSetReg v r s
  | .setDirect v d => Sys2Proof.Machine.execSetDirect v d s
  | .rstInd v n m => Sys2Proof.Machine.execRstInd v n m s
  | .rstReg v r => Sys2Proof.Machine.execRstReg v r s
  | .rstDirect v d => Sys2Proof.Machine.execRstDirect v d s
  | .chngInd v n m => Sys2Proof.Machine.execChngInd v n m s
  | .chngReg v r => Sys2Proof.Machine.execChngReg v r s
  | .chngDirect v d => Sys2Proof.Machine.execChngDirect v d s
  | .addvInd v n m => Sys2Proof.Machine.execAddvInd v n m s
  | .addvReg v r => Sys2Proof.Machine.execAddvReg v r s
  | .addvDirect v d => Sys2Proof.Machine.execAddvDirect v d s
  | .tst0LongInd v n m => Sys2Proof.Machine.execTst0LongInd v n m s
  | .tst0LongReg v r => Sys2Proof.Machine.execTst0LongReg v r s
  | .tst0LongDirect v d => Sys2Proof.Machine.execTst0LongDirect v d s
  | .tst1LongInd v n m => Sys2Proof.Machine.execTst1LongInd v n m s
  | .tst1LongReg v r => Sys2Proof.Machine.execTst1LongReg v r s
  | .tst1LongDirect v d => Sys2Proof.Machine.execTst1LongDirect v d s
  | .cmpvInd v n m => Sys2Proof.Machine.execCmpvInd v n m s
  | .cmpvReg v r => Sys2Proof.Machine.execCmpvReg v r s
  | .cmpvDirect v d => Sys2Proof.Machine.execCmpvDirect v d s
  | .subvInd v n m => Sys2Proof.Machine.execSubvInd v n m s
  | .subvReg v r => Sys2Proof.Machine.execSubvReg v r s
  | .subvDirect v d => Sys2Proof.Machine.execSubvDirect v d s
  | .maxd a strict m => Sys2Proof.Machine.execMaxd a strict m s
  | .max a strict m => Sys2Proof.Machine.execMax a strict m s
  | .min a strict m => Sys2Proof.Machine.execMin a strict m s
  | .lim src dst => Sys2Proof.Machine.execLim src dst s
  | .mpyInd n m => Sys2Proof.Machine.execMpyInd n m s
  | .mpyReg r => Sys2Proof.Machine.execMpyReg r s
  | .mpyDual j mj k mi => Sys2Proof.Machine.execMpyDual j mj k mi s
  | .mpyLong n m v => Sys2Proof.Machine.execMpyLong n m v s
  | .mpysuInd n m => Sys2Proof.Machine.execMpysuInd n m s
  | .mpysuReg r => Sys2Proof.Machine.execMpysuReg r s
  | .mpysuDual j mj k mi => Sys2Proof.Machine.execMpysuDual j mj k mi s
  | .mpysuLong n m v => Sys2Proof.Machine.execMpysuLong n m v s
  | .macInd a n m => Sys2Proof.Machine.execMacInd a n m s
  | .macReg a r => Sys2Proof.Machine.execMacReg a r s
  | .macDual a j mj k mi => Sys2Proof.Machine.execMacDual a j mj k mi s
  | .macLong a n m v => Sys2Proof.Machine.execMacLong a n m v s
  | .macusInd a n m => Sys2Proof.Machine.execMacusInd a n m s
  | .macusReg a r => Sys2Proof.Machine.execMacusReg a r s
  | .macusDual a j mj k mi => Sys2Proof.Machine.execMacusDual a j mj k mi s
  | .macusLong a n m v => Sys2Proof.Machine.execMacusLong a n m v s
  | .maaInd a n m => Sys2Proof.Machine.execMaaInd a n m s
  | .maaReg a r => Sys2Proof.Machine.execMaaReg a r s
  | .maaDual a j mj k mi => Sys2Proof.Machine.execMaaDual a j mj k mi s
  | .maaLong a n m v => Sys2Proof.Machine.execMaaLong a n m v s
  | .macuuInd a n m => Sys2Proof.Machine.execMacuuInd a n m s
  | .macuuReg a r => Sys2Proof.Machine.execMacuuReg a r s
  | .macuuDual a j mj k mi => Sys2Proof.Machine.execMacuuDual a j mj k mi s
  | .macuuLong a n m v => Sys2Proof.Machine.execMacuuLong a n m v s
  | .macsuInd a n m => Sys2Proof.Machine.execMacsuInd a n m s
  | .macsuReg a r => Sys2Proof.Machine.execMacsuReg a r s
  | .macsuDual a j mj k mi => Sys2Proof.Machine.execMacsuDual a j mj k mi s
  | .macsuLong a n m v => Sys2Proof.Machine.execMacsuLong a n m v s
  | .maasuInd a n m => Sys2Proof.Machine.execMaasuInd a n m s
  | .maasuReg a r => Sys2Proof.Machine.execMaasuReg a r s
  | .maasuDual a j mj k mi => Sys2Proof.Machine.execMaasuDual a j mj k mi s
  | .maasuLong a n m v => Sys2Proof.Machine.execMaasuLong a n m v s
  | .mpyDirect d => Sys2Proof.Machine.execMpyDirect d s
  | .macDirect a d => Sys2Proof.Machine.execMacDirect a d s
  | .maaDirect a d => Sys2Proof.Machine.execMaaDirect a d s
  | .macsuDirect a d => Sys2Proof.Machine.execMacsuDirect a d s
  | .mpyi v => Sys2Proof.Machine.execMpyi v s
  | .msuLong a n m v => Sys2Proof.Machine.execMsuLong a n m v s
  | .msuDual a j mj k mi => Sys2Proof.Machine.execMsuDual a j mj k mi s
  | .tstbInd n m k => Sys2Proof.Machine.execTstbInd n m k s
  | .tstbReg r k => Sys2Proof.Machine.execTstbReg r k s
  | .tstbDirect d k => Sys2Proof.Machine.execTstbDirect d k s
  | .shfc src dst cc => Sys2Proof.Machine.execShfc src dst cc s
  | .shfi src dst v => Sys2Proof.Machine.execShfi src dst v s
  | .expInd n m dst => Sys2Proof.Machine.execExpInd n m dst s
  | .expReg r dst => Sys2Proof.Machine.execExpReg r dst s
  | .expAcc b dst => Sys2Proof.Machine.execExpAcc b dst s
  | .movRegReg src dst => Sys2Proof.Machine.execMovRegReg src dst s
  | .movAccAcc src dst => Sys2Proof.Machine.execMovAccAcc src dst s
  | .movAccDvm src => Sys2Proof.Machine.execMovAccDvm src s
  | .movAccX src => Sys2Proof.Machine.execMovAccX src s
  | .movRegB r b => Sys2Proof.Machine.execMovRegB r b s
  | .movRegMixp r => Sys2Proof.Machine.execMovRegMixp r s
  | .movRegInd r n m => Sys2Proof.Machine.execMovRegInd r n m s
  | .movMixpReg r => Sys2Proof.Machine.execMovMixpReg r s
  | .movSpecAcc src acc => Sys2Proof.Machine.execMovSpecAcc src acc s
  | .movIcrAcc acc => Sys2Proof.Machine.execMovIcrAcc acc s
  | .movIndReg n m r => Sys2Proof.Machine.execMovIndReg n m r s
  | .movIndB n m b => Sys2Proof.Machine.execMovIndB n m b s
  | .movSpReg r => Sys2Proof.Machine.execMovSpReg r s
  | .movRnDirect n d => Sys2Proof.Machine.execMovRnDirect n d s
  | .movHalfDirect acc h d => Sys2Proof.Machine.execMovHalfDirect acc h d s
  | .movDirectRn d n => Sys2Proof.Machine.execMovDirectRn d n s
  | .movDirectAcc d acc => Sys2Proof.Machine.execMovDirectAcc d acc s
  | .movDirectHalf d acc h => Sys2Proof.Machine.execMovDirectHalf d acc h s
  | .movDirectHighEu d a => Sys2Proof.Machine.execMovDirectHighEu d a s
  | .movDirectSv d => Sys2Proof.Machine.execMovDirectSv d s
  | .movSvDirect d => Sys2Proof.Machine.execMovSvDirect d s
  | .movLongDirectA addr a => Sys2Proof.Machine.execMovLongDirectA addr a s
  | .movALongDirect a addr => Sys2Proof.Machine.execMovALongDirect a addr s
  | .movLongReg v r => Sys2Proof.Machine.execMovLongReg v r s
  | .movLongB v b => Sys2Proof.Machine.execMovLongB v b s
  | .movShortHalf v a h => Sys2Proof.Machine.execMovShortHalf v a h s
  | .movShortRn v n => Sys2Proof.Machine.execMovShortRn v n s
  | .movShortExt v k => Sys2Proof.Machine.execMovShortExt v k s
  | .movShortSv v => Sys2Proof.Machine.execMovShortSv v s
  | .movRegIcr r => Sys2Proof.Machine.execMovRegIcr r s
  | .movShortIcr v => Sys2Proof.Machine.execMovShortIcr v s
  | .movRbShortA o a => Sys2Proof.Machine.execMovRbShortA o a s
  | .movARbShort a o => Sys2Proof.Machine.execMovARbShort a o s
  | .movRbLongA o a => Sys2Proof.Machine.execMovRbLongA o a s
  | .movARbLong a o => Sys2Proof.Machine.execMovARbLong a o s
  | .movpAccReg a r => Sys2Proof.Machine.execMovpAccReg a r s
  | .movpIndInd n m k mi => Sys2Proof.Machine.execMovpIndInd n m k mi s
  | .movsReg r acc => Sys2Proof.Machine.execMovsReg r acc s
  | .movsInd n m acc => Sys2Proof.Machine.execMovsInd n m acc s
  | .movsDirect d acc => Sys2Proof.Machine.execMovsDirect d acc s
  | .movsi n acc v => Sys2Proof.Machine.execMovsi n acc v s
  | .movrReg r a => Sys2Proof.Machine.execMovrReg r a s
  | .movrInd n m a => Sys2Proof.Machine.execMovrInd n m a s
  | .pushReg r => Sys2Proof.Machine.execPushReg r s
  | .pushLong v => Sys2Proof.Machine.execPushLong v s
  | .pop r => Sys2Proof.Machine.execPop r s
  | .swap opt => Sys2Proof.Machine.execSwap opt s
  | .banke k => Sys2Proof.Machine.execBanke k s
  | .movd k mi j mj => Sys2Proof.Machine.execMovd k mi j mj s
  | .repReg r => Sys2Proof.Machine.execRepReg r s
  | .repShort v => Sys2Proof.Machine.execRepShort v s
  | .bkrepShort v addr => Sys2Proof.Machine.execBkrepShort v addr s
  | .bkrepReg r addr => Sys2Proof.Machine.execBkrepReg r addr s
  | .br addr cc => Sys2Proof.Machine.execBr addr cc s
  | .brr o cc => Sys2Proof.Machine.execBrr o cc s
  | .call addr cc => Sys2Proof.Machine.execCall addr cc s
  | .callr o cc => Sys2Proof.Machine.execCallr o cc s
  | .calla a => Sys2Proof.Machine.execCalla a s
  | .ret cc => Sys2Proof.Machine.execRet cc s
  | .reti cc ctx => Sys2Proof.Machine.execReti cc ctx s
  | .cntx restore => Sys2Proof.Machine.execCntx restore s
  | .rets v => Sys2Proof.Machine.execRets v s
  | .modr n m dmod => Sys2Proof.Machine.execModr n m dmod s
  | .loadPage v => Sys2Proof.Machine.execLoadPage v s
  | .loadMod j v => Sys2Proof.Machine.execLoadMod j v s
  | .loadStep j v => Sys2Proof.Machine.execLoadStep j v s
  | .loadPs v => Sys2Proof.Machine.execLoadPs v s
  | .brk => Sys2Proof.Machine.execBrk s
  | .retd => Sys2Proof.Machine.execRetd s
  | .retid => Sys2Proof.Machine.execRetid s
  | .nop => Sys2Proof.Machine.execNop s
  | .eint => Sys2Proof.Machine.execEint s
  | .dint => Sys2Proof.Machine.execDint s
  | .trap => Sys2Proof.Machine.execTrap s

end Sys2Proof.Machine
end

