-- ==== Sys2Proof/Machine/Events.lean ====
section
/-! DEFINITION. What the other agents do between two steps of the core (spec/61_platform_devices.md R501, R541, R545,
spec/70_reset_and_hazards.md section 1). -/

namespace Sys2Proof.Machine

/-- The program words the host uploads during reset (R82, R554); a word outside the program RAM is not stored, and of two
words for one address the later one of the list counts (log 26). -/
def uploadImage : List (Word × Word) → Mem → Mem
  | [], m => m
  | (a, v) :: t, m => uploadImage t (if progMapped a then memSetWord m a v else m)

/-- The registers after a reset of a running machine: every one without a reset value is free (R552, D32). `k` is
the first unused counter value. -/
def freeRegs (k : Nat) : Regs where
  a0 := Config.freeAcc k
  a1 := Config.freeAcc (k + 1)
  b0 := Config.freeAcc (k + 2)
  b1 := Config.freeAcc (k + 3)
  x := Config.freeWord (k + 4)
  y := Config.freeWord (k + 5)
  p := Config.freeWord (k + 6) ++ Config.freeWord (k + 7)
  pUnsigned := false
  sv := Config.freeWord (k + 8)
  r0 := Config.freeWord (k + 9)
  r1 := Config.freeWord (k + 10)
  r2 := Config.freeWord (k + 11)
  r3 := Config.freeWord (k + 12)
  r4 := Config.freeWord (k + 13)
  r5 := Config.freeWord (k + 14)
  rb := Config.freeWord (k + 15)
  sp := Config.freeWord (k + 16)
  cfgi := Config.freeWord (k + 17)
  cfgj := Config.freeWord (k + 18)
  mixp := Config.freeWord (k + 19)
  r0b := Config.freeWord (k + 20)
  r1b := Config.freeWord (k + 21)
  r4b := Config.freeWord (k + 22)
  cfgib := Config.freeWord (k + 23)
  dvm := Config.freeWord (k + 24)
  lc := Config.freeWord (k + 25)
  repc := Config.freeWord (k + 26)

/-- The control state after such a reset: nothing runs, the addresses are free. -/
def freeControl (k : Nat) : Control :=
  { Control.reset with
    bkStart := Config.freeWord k
    bkEnd := Config.freeWord (k + 1)
    repAddr := Config.freeWord (k + 2)
    repSaved := Config.freeWord (k + 3)
    delayTarget := Config.freeWord (k + 4) }

/-- The shadow after such a reset: free. -/
def freeShadow (k : Nat) : Shadow where
  st0 := (Config.freeWord k).extractLsb' 0 10
  sat := Config.freeBit k
  ps := (Config.freeWord (k + 1)).extractLsb' 0 2
  st2 := (Config.freeWord (k + 2)).extractLsb' 0 8
  pageAlt := (Config.freeWord (k + 3)).extractLsb' 0 8

/-- The OCEM after such a reset (R502, R505, R555): STATUS0, MODE0 and MVD are 0, ERR is set when the reset came
inside the TRAP/BI routine, DBG and BOOT are sampled, the registers without a reset value are free. -/
def resetOcem (inTrap : Bool) (k : Nat) (o : Ocem) : Ocem :=
  { Ocem.reset with
    err := o.err || inTrap
    dabp := Config.freeWord k
    dam := Config.freeWord (k + 1)
    pabc1 := (Config.freeWord (k + 2)).extractLsb' 0 6
    pabc2 := (Config.freeWord (k + 3)).extractLsb' 0 6
    pabc3 := (Config.freeWord (k + 4)).extractLsb' 0 6
    pabp1 := Config.freeWord (k + 5)
    pabp2 := Config.freeWord (k + 6)
    pabp3 := Config.freeWord (k + 7)
    trace := (List.range 16).map fun j => ⟨Config.freeBit (k + 8 + j), Config.freeWord (k + 8 + j)⟩ }

/-- A reset by the host, of at least twelve cycles (R550 to R555, D28, D32): the listed fields take their reset
values, every other register is free, memories, mailbox and pins keep theirs, codec and OCEM are reset. DESIGN CHOICE,
log 40, unsafe: the receive FIFO of the codec is emptied, and a half-passed 32-bit entry is dropped. -/
def hostReset (cycles : Nat) (image : List (Word × Word)) (s : State) : Res State :=
  if cycles < 12 then .refused .shortReset
  else
    let k := s.freeCount
    .next { State.reset with
      regs := freeRegs k
      md := { Modes.reset with page := (Config.freeWord (k + 27)).extractLsb' 0 8 }
      ctl := freeControl (k + 28)
      shadow := freeShadow (k + 33)
      prog := uploadImage image s.prog
      data := s.data
      dpmb := s.dpmb
      ocem := resetOcem s.ctl.inTrap (k + 37) s.ocem
      iuser0 := s.iuser0
      iuser1 := s.iuser1
      freeCount := k + 61
      extLog := s.extLog
      armLog := s.armLog
      inputs := s.inputs }

/-- One event. -/
def applyEvent (e : AgentEvent) (s : State) : Res State :=
  match e with
  | .armWriteHalf offset v => .next (armWriteHalf offset v s)
  | .armWriteWord offset v => .next (armWriteWord offset v s)
  | .armReadHalf offset => .next (armReadHalf offset s)
  | .armReadWord offset => .next (armReadWord offset s)
  | .armByteAccess offset => .next (armRecord (.abort offset) s)
  | .hostReset cycles image => hostReset cycles image s
  | .codecDeliver w => .next { s with codec := codecDeliver w s.codec }
  | .codecTake => .next { s with codec := codecTake s.codec }
  | .pin0 b => .next { s with iuser0 := b }
  | .pin1 b => .next { s with iuser1 := b }

/-- The events of one list, in order. -/
def applyEvents : List AgentEvent → State → Res State
  | [], s => .next s
  | e :: t, s => andThen (applyEvent e s) (applyEvents t)

/-- The events before the next step: the head of the schedule, which is taken off it. -/
def scheduled (s : State) : Res State :=
  match s.inputs with
  | [] => .next s
  | es :: rest => applyEvents es { s with inputs := rest }

/-- What the other agents and the input OCEM_ABORT do before the next step. -/
def agentStep (s : State) : Res State := andThen (scheduled s) fun t => .next (ocemExternal t)

end Sys2Proof.Machine
end

