-- ==== Sys2Proof/Decode.lean ====
section
/-! DEFINITION. Decoding and encoding, from the patterns of spec/opcode_table.json (spec/30_encoding.md R130 to
R158). -/

namespace Sys2Proof

/-! ## Field codes -/

/-- Field A (R134). -/
def encA : AccA → BitVec 1
  | .a0 => 0b0#1
  | .a1 => 0b1#1

/-- Field A (R134). -/
def decA (b : BitVec 1) : AccA :=
  match b.toNat with
  | 0 => .a0
  | _ => .a1

/-- Field B (R134). -/
def encB : AccB → BitVec 1
  | .b0 => 0b0#1
  | .b1 => 0b1#1

/-- Field B (R134). -/
def decB (b : BitVec 1) : AccB :=
  match b.toNat with
  | 0 => .b0
  | _ => .b1

/-- Field AB (R135). -/
def encAcc : Acc → BitVec 2
  | .b0 => 0b00#2
  | .b1 => 0b01#2
  | .a0 => 0b10#2
  | .a1 => 0b11#2

/-- Field AB (R135). -/
def decAcc (b : BitVec 2) : Acc :=
  match b.toNat with
  | 0 => .b0
  | 1 => .b1
  | 2 => .a0
  | _ => .a1

/-- Field L (R134). -/
def encHalf : Half → BitVec 1
  | .lo => 0b0#1
  | .hi => 0b1#1

/-- Field L (R134). -/
def decHalf (b : BitVec 1) : Half :=
  match b.toNat with
  | 0 => .lo
  | _ => .hi

/-- Field nnn for rN (R137). -/
def encRN : RN → BitVec 3
  | .r0 => 0b000#3
  | .r1 => 0b001#3
  | .r2 => 0b010#3
  | .r3 => 0b011#3
  | .r4 => 0b100#3
  | .r5 => 0b101#3

/-- Field nnn for rN (R137). -/
def decRN (b : BitVec 3) : Option RN :=
  match b.toNat with
  | 0 => some .r0
  | 1 => some .r1
  | 2 => some .r2
  | 3 => some .r3
  | 4 => some .r4
  | 5 => some .r5
  | _ => none

/-- Field nnn for rN* (R137). -/
def encStar : RNStar → BitVec 3
  | .r0 => 0b000#3
  | .r1 => 0b001#3
  | .r2 => 0b010#3
  | .r3 => 0b011#3
  | .r4 => 0b100#3
  | .r5 => 0b101#3
  | .rb => 0b110#3
  | .y => 0b111#3

/-- Field nnn for rN* (R137). -/
def decStar (b : BitVec 3) : RNStar :=
  match b.toNat with
  | 0 => .r0
  | 1 => .r1
  | 2 => .r2
  | 3 => .r3
  | 4 => .r4
  | 5 => .r5
  | 6 => .rb
  | _ => .y

/-- Field qq (R137). -/
def encI : RI → BitVec 2
  | .r0 => 0b00#2
  | .r1 => 0b01#2
  | .r2 => 0b10#2
  | .r3 => 0b11#2

/-- Field qq (R137). -/
def decI (b : BitVec 2) : RI :=
  match b.toNat with
  | 0 => .r0
  | 1 => .r1
  | 2 => .r2
  | _ => .r3

/-- Field w (R137). -/
def encJ : RJ → BitVec 1
  | .r4 => 0b0#1
  | .r5 => 0b1#1

/-- Field w (R137). -/
def decJ (b : BitVec 1) : RJ :=
  match b.toNat with
  | 0 => .r4
  | _ => .r5

/-- Fields mm, ii, jj (R138). -/
def encMod : PostMod → BitVec 2
  | .keep => 0b00#2
  | .inc => 0b01#2
  | .dec => 0b10#2
  | .step => 0b11#2

/-- Fields mm, ii, jj (R138). -/
def decMod (b : BitVec 2) : PostMod :=
  match b.toNat with
  | 0 => .keep
  | 1 => .inc
  | 2 => .dec
  | _ => .step

/-- Field rrrrr (R140). -/
def encReg : Reg → BitVec 5
  | .r0 => 0b00000#5
  | .r1 => 0b00001#5
  | .r2 => 0b00010#5
  | .r3 => 0b00011#5
  | .r4 => 0b00100#5
  | .r5 => 0b00101#5
  | .rb => 0b00110#5
  | .y => 0b00111#5
  | .st0 => 0b01000#5
  | .st1 => 0b01001#5
  | .st2 => 0b01010#5
  | .p => 0b01011#5
  | .pc => 0b01100#5
  | .sp => 0b01101#5
  | .cfgi => 0b01110#5
  | .cfgj => 0b01111#5
  | .b0h => 0b10000#5
  | .b1h => 0b10001#5
  | .b0l => 0b10010#5
  | .b1l => 0b10011#5
  | .ext0 => 0b10100#5
  | .ext1 => 0b10101#5
  | .ext2 => 0b10110#5
  | .ext3 => 0b10111#5
  | .a0 => 0b11000#5
  | .a1 => 0b11001#5
  | .a0l => 0b11010#5
  | .a1l => 0b11011#5
  | .a0h => 0b11100#5
  | .a1h => 0b11101#5
  | .lc => 0b11110#5
  | .sv => 0b11111#5

/-- Field rrrrr (R140). -/
def decReg (b : BitVec 5) : Reg :=
  match b.toNat with
  | 0 => .r0
  | 1 => .r1
  | 2 => .r2
  | 3 => .r3
  | 4 => .r4
  | 5 => .r5
  | 6 => .rb
  | 7 => .y
  | 8 => .st0
  | 9 => .st1
  | 10 => .st2
  | 11 => .p
  | 12 => .pc
  | 13 => .sp
  | 14 => .cfgi
  | 15 => .cfgj
  | 16 => .b0h
  | 17 => .b1h
  | 18 => .b0l
  | 19 => .b1l
  | 20 => .ext0
  | 21 => .ext1
  | 22 => .ext2
  | 23 => .ext3
  | 24 => .a0
  | 25 => .a1
  | 26 => .a0l
  | 27 => .a1l
  | 28 => .a0h
  | 29 => .a1h
  | 30 => .lc
  | _ => .sv

/-- Field cccc (R141). -/
def encCond : Cond → BitVec 4
  | .always => 0b0000#4
  | .eq => 0b0001#4
  | .neq => 0b0010#4
  | .gt => 0b0011#4
  | .ge => 0b0100#4
  | .lt => 0b0101#4
  | .le => 0b0110#4
  | .nn => 0b0111#4
  | .c => 0b1000#4
  | .v => 0b1001#4
  | .e => 0b1010#4
  | .l => 0b1011#4
  | .nr => 0b1100#4
  | .niu0 => 0b1101#4
  | .iu0 => 0b1110#4
  | .iu1 => 0b1111#4

/-- Field cccc (R141). -/
def decCond (b : BitVec 4) : Cond :=
  match b.toNat with
  | 0 => .always
  | 1 => .eq
  | 2 => .neq
  | 3 => .gt
  | 4 => .ge
  | 5 => .lt
  | 6 => .le
  | 7 => .nn
  | 8 => .c
  | 9 => .v
  | 10 => .e
  | 11 => .l
  | 12 => .nr
  | 13 => .niu0
  | 14 => .iu0
  | _ => .iu1

/-- Swap option (R143). -/
def encSwap : SwapOpt → BitVec 4
  | .a0b0 => 0b0000#4
  | .a0b1 => 0b0001#4
  | .a1b0 => 0b0010#4
  | .a1b1 => 0b0011#4
  | .a0b0_a1b1 => 0b0100#4
  | .a0b1_a1b0 => 0b0101#4
  | .a0_b0_a1 => 0b0110#4
  | .a0_b1_a1 => 0b0111#4
  | .a1_b0_a0 => 0b1000#4
  | .a1_b1_a0 => 0b1001#4
  | .b0_a0_b1 => 0b1010#4
  | .b0_a1_b1 => 0b1011#4
  | .b1_a0_b0 => 0b1100#4
  | .b1_a1_b0 => 0b1101#4

/-- Swap option (R143). -/
def decSwap (b : BitVec 4) : Option SwapOpt :=
  match b.toNat with
  | 0 => some .a0b0
  | 1 => some .a0b1
  | 2 => some .a1b0
  | 3 => some .a1b1
  | 4 => some .a0b0_a1b1
  | 5 => some .a0b1_a1b0
  | 6 => some .a0_b0_a1
  | 7 => some .a0_b1_a1
  | 8 => some .a1_b0_a0
  | 9 => some .a1_b1_a0
  | 10 => some .b0_a0_b1
  | 11 => some .b0_a1_b1
  | 12 => some .b1_a0_b0
  | 13 => some .b1_a1_b0
  | _ => none

/-- A one-bit option field. -/
def encFlag (f : Bool) : BitVec 1 := BitVec.ofBool f

/-- A one-bit option field. -/
def decFlag (b : BitVec 1) : Bool := b == 1#1

/-- The bits `hi` down to `lo` of a word. -/
abbrev bits (w : Word) (hi lo : Nat) : BitVec (hi - lo + 1) := w.extractLsb hi lo

/-- Reads an rN field; 110 and 111 are reserved (R137). -/
def withRNField (b : BitVec 3) (f : RN → Instr) : Except DecodeError Instr :=
  match decRN b with
  | some n => .ok (f n)
  | none => .error .reservedAddressRegister

/-- The rN field in bits 2 to 0. -/
def withRN (w : Word) (f : RN → Instr) : Except DecodeError Instr := withRNField (bits w 2 0) f

/-- Reads the swap option in bits 3 to 0; 1110 and 1111 are reserved (R143). -/
def withSwap (w : Word) (f : SwapOpt → Instr) : Except DecodeError Instr :=
  match decSwap (bits w 3 0) with
  | some p => .ok (f p)
  | none => .error .reservedSwapOption

/-! ## The patterns of grade G

The spec supplied these rows (R133, U3): each pattern is a parameter of its own, which the row of the table and the
encoder below take from here, at the default spec/opcode_table.json gives (log 31). PRESUMED, unsafe. -/

/-- A pattern of grade G: the mask and the values of its fixed bits, and the lowest bit of each operand field. -/
structure GPattern where
  mask : Word
  pattern : Word
  lo : List Nat
  deriving DecidableEq, Repr

/-- Field `k` of a pattern, `n` bits wide. -/
def gField (g : GPattern) (k n : Nat) (w : Word) : BitVec n := w.extractLsb' (g.lo.getD k 0) n

/-- The word `w` with field `k` of a pattern set to `v`. -/
def gPut {n : Nat} (g : GPattern) (k : Nat) (v : BitVec n) (w : Word) : Word := w ||| (v.setWidth 16 <<< g.lo.getD k 0)

/-- `or`, ALM register: 1000000A101rrrrr (R210). -/
def gOrReg : GPattern := ⟨0xFEE0#16, 0x80A0#16, [8, 0]⟩

/-- `and`, ALM register: 1000001A101rrrrr (R209). -/
def gAndReg : GPattern := ⟨0xFEE0#16, 0x82A0#16, [8, 0]⟩

/-- `xor`, ALM register: 1000010A101rrrrr (R211). -/
def gXorReg : GPattern := ⟨0xFEE0#16, 0x84A0#16, [8, 0]⟩

/-- `add`, ALM register: 1000011A101rrrrr (R201). -/
def gAddReg : GPattern := ⟨0xFEE0#16, 0x86A0#16, [8, 0]⟩

/-- `tst0`, ALM register: 1000100A101rrrrr (R328). -/
def gTst0AccReg : GPattern := ⟨0xFEE0#16, 0x88A0#16, [8, 0]⟩

/-- `tst1`, ALM register: 1000101A101rrrrr (R329). -/
def gTst1AccReg : GPattern := ⟨0xFEE0#16, 0x8AA0#16, [8, 0]⟩

/-- `cmp`, ALM register: 1000110A101rrrrr (R207). -/
def gCmpReg : GPattern := ⟨0xFEE0#16, 0x8CA0#16, [8, 0]⟩

/-- `sub`, ALM register: 1000111A101rrrrr (R204). -/
def gSubReg : GPattern := ⟨0xFEE0#16, 0x8EA0#16, [8, 0]⟩

/-- `msu`, ALM register: 1001000A101rrrrr (R301). -/
def gMsuReg : GPattern := ⟨0xFEE0#16, 0x90A0#16, [8, 0]⟩

/-- `addh`, ALM register: 1001001A101rrrrr (R202). -/
def gAddhReg : GPattern := ⟨0xFEE0#16, 0x92A0#16, [8, 0]⟩

/-- `addl`, ALM register: 1001010A101rrrrr (R203). -/
def gAddlReg : GPattern := ⟨0xFEE0#16, 0x94A0#16, [8, 0]⟩

/-- `subh`, ALM register: 1001011A101rrrrr (R205). -/
def gSubhReg : GPattern := ⟨0xFEE0#16, 0x96A0#16, [8, 0]⟩

/-- `subl`, ALM register: 1001100A101rrrrr (R206). -/
def gSublReg : GPattern := ⟨0xFEE0#16, 0x98A0#16, [8, 0]⟩

/-- `sqr`, ALM register: 1001101A101rrrrr (R302). -/
def gSqrReg : GPattern := ⟨0xFEE0#16, 0x9AA0#16, [0]⟩

/-- `sqra`, ALM register: 1001110A101rrrrr (R303). -/
def gSqraReg : GPattern := ⟨0xFEE0#16, 0x9CA0#16, [8, 0]⟩

/-- `cmpu`, ALM register: 1001111A101rrrrr (R208). -/
def gCmpuReg : GPattern := ⟨0xFEE0#16, 0x9EA0#16, [8, 0]⟩

/-- `shr`, moda func,aX,cond: 011A01110000cccc (R244). -/
def gShrA : GPattern := ⟨0xEFF0#16, 0x6700#16, [12, 0]⟩

/-- `shr4`, moda func,aX,cond: 011A01110001cccc (R245). -/
def gShr4A : GPattern := ⟨0xEFF0#16, 0x6710#16, [12, 0]⟩

/-- `shl`, moda func,aX,cond: 011A01110010cccc (R246). -/
def gShlA : GPattern := ⟨0xEFF0#16, 0x6720#16, [12, 0]⟩

/-- `shl4`, moda func,aX,cond: 011A01110011cccc (R247). -/
def gShl4A : GPattern := ⟨0xEFF0#16, 0x6730#16, [12, 0]⟩

/-- `ror`, moda func,aX,cond: 011A01110100cccc (R248). -/
def gRorA : GPattern := ⟨0xEFF0#16, 0x6740#16, [12, 0]⟩

/-- `rol`, moda func,aX,cond: 011A01110101cccc (R249). -/
def gRolA : GPattern := ⟨0xEFF0#16, 0x6750#16, [12, 0]⟩

/-- `clr`, moda func,aX,cond: 011A01110110cccc (R250). -/
def gClrA : GPattern := ⟨0xEFF0#16, 0x6760#16, [12, 0]⟩

/-- `not`, moda func,aX,cond: 011A01111000cccc (R251). -/
def gNotA : GPattern := ⟨0xEFF0#16, 0x6780#16, [12, 0]⟩

/-- `neg`, moda func,aX,cond: 011A01111001cccc (R252). -/
def gNegA : GPattern := ⟨0xEFF0#16, 0x6790#16, [12, 0]⟩

/-- `rnd`, moda func,aX,cond: 011A01111010cccc (R253). -/
def gRndA : GPattern := ⟨0xEFF0#16, 0x67A0#16, [12, 0]⟩

/-- `pacr`, moda func,aX,cond: 011A01111011cccc (R254). -/
def gPacrA : GPattern := ⟨0xEFF0#16, 0x67B0#16, [12, 0]⟩

/-- `clrr`, moda func,aX,cond: 011A01111100cccc (R255). -/
def gClrrA : GPattern := ⟨0xEFF0#16, 0x67C0#16, [12, 0]⟩

/-- `inc`, moda func,aX,cond: 011A01111101cccc (R256). -/
def gIncA : GPattern := ⟨0xEFF0#16, 0x67D0#16, [12, 0]⟩

/-- `dec`, moda func,aX,cond: 011A01111110cccc (R257). -/
def gDecA : GPattern := ⟨0xEFF0#16, 0x67E0#16, [12, 0]⟩

/-- `copy`, moda func,aX,cond: 011A01111111cccc (R258). -/
def gCopyA : GPattern := ⟨0xEFF0#16, 0x67F0#16, [12, 0]⟩

/-- `norm`, norm aX,(rN): 1001010A110mmnnn (R276). -/
def gNorm : GPattern := ⟨0xFEE0#16, 0x94C0#16, [8, 3, 0]⟩

/-- `min`, min aX,(r0),le|lt: 100010fA011mm000 (R234). -/
def gMin : GPattern := ⟨0xFCE7#16, 0x8860#16, [8, 9, 3]⟩

/-- `lim`, lim aX[,aX]: 0100100111ST0000 (R215). -/
def gLim : GPattern := ⟨0xFFCF#16, 0x49C0#16, [5, 4]⟩

/-- `mpy`, MUL y,(rN): 1000A000001mmnnn (R292). -/
def gMpyInd : GPattern := ⟨0xF7E0#16, 0x8020#16, [3, 0]⟩

/-- `mpysu`, MUL y,(rN): 1000A001001mmnnn (R294). -/
def gMpysuInd : GPattern := ⟨0xF7E0#16, 0x8120#16, [3, 0]⟩

/-- `mac`, MUL y,(rN): 1000A010001mmnnn (R295). -/
def gMacInd : GPattern := ⟨0xF7E0#16, 0x8220#16, [11, 3, 0]⟩

/-- `macus`, MUL y,(rN): 1000A011001mmnnn (R297). -/
def gMacusInd : GPattern := ⟨0xF7E0#16, 0x8320#16, [11, 3, 0]⟩

/-- `maa`, MUL y,(rN): 1000A100001mmnnn (R299). -/
def gMaaInd : GPattern := ⟨0xF7E0#16, 0x8420#16, [11, 3, 0]⟩

/-- `macuu`, MUL y,(rN): 1000A101001mmnnn (R298). -/
def gMacuuInd : GPattern := ⟨0xF7E0#16, 0x8520#16, [11, 3, 0]⟩

/-- `macsu`, MUL y,(rN): 1000A110001mmnnn (R296). -/
def gMacsuInd : GPattern := ⟨0xF7E0#16, 0x8620#16, [11, 3, 0]⟩

/-- `maasu`, MUL y,(rN): 1000A111001mmnnn (R300). -/
def gMaasuInd : GPattern := ⟨0xF7E0#16, 0x8720#16, [11, 3, 0]⟩

/-- `mov`, mov aXl|bXl,dvm: 1101ss1010011000 (R360). -/
def gMovAccDvm : GPattern := ⟨0xF3FF#16, 0xD298#16, [10]⟩

/-- `mov`, mov aXl|bXl,x: 1101ss1011011000 (R362). -/
def gMovAccX : GPattern := ⟨0xF3FF#16, 0xD2D8#16, [10]⟩

/-- `mov`, mov register,mixp: 01011110100rrrrr (R348). -/
def gMovRegMixp : GPattern := ⟨0xFFE0#16, 0x5E80#16, [0]⟩

/-- `mov`, mov register,icr: 0100111111.rrrrr (R365). -/
def gMovRegIcr : GPattern := ⟨0xFFC0#16, 0x4FC0#16, [0]⟩

/-- `mov`, mov #imm5,icr: 0100111110.vvvvv (R366). -/
def gMovShortIcr : GPattern := ⟨0xFFC0#16, 0x4F80#16, [0]⟩

/-- `mov`, mov aXl,(rb+##offset): 1101010A100111.. (R381). -/
def gMovARbLong : GPattern := ⟨0xFEFC#16, 0xD49C#16, [8]⟩

/-- `reti`, reti cond[,context]: 01000101110fcccc (R412). -/
def gReti : GPattern := ⟨0xFFE0#16, 0x45C0#16, [0, 4]⟩

/-- `modr`, modr (rN)[,dmod]: 0000000010fmmnnn (R392). -/
def gModr : GPattern := ⟨0xFFC0#16, 0x0080#16, [3, 5, 0]⟩

/-! ## The opcode table

One list per group; mask and pattern are those of the table's row, and `w2` is the second word of a two-word row
(R130). A row refuses no word but for a reserved rN field or swap option. -/

/-- ALM group (R145). -/
def rowsAlm : List OpRow := [
  ⟨0xFE00#16, 0xA000#16, fun w _ => .ok (.orDirect (decA (bits w 8 8)) (bits w 7 0))⟩,
  ⟨0xFEE0#16, 0x8080#16, fun w _ => withRN w fun n => .orInd (decA (bits w 8 8)) n (decMod (bits w 4 3))⟩,
  ⟨gOrReg.mask, gOrReg.pattern, fun w _ => .ok (.orReg (decA (gField gOrReg 0 1 w)) (decReg (gField gOrReg 1 5 w)))⟩,
  ⟨0xFE00#16, 0xA200#16, fun w _ => .ok (.andDirect (decA (bits w 8 8)) (bits w 7 0))⟩,
  ⟨0xFEE0#16, 0x8280#16, fun w _ => withRN w fun n => .andInd (decA (bits w 8 8)) n (decMod (bits w 4 3))⟩,
  ⟨gAndReg.mask, gAndReg.pattern, fun w _ => .ok (.andReg (decA (gField gAndReg 0 1 w)) (decReg (gField gAndReg 1 5 w)))⟩,
  ⟨0xFE00#16, 0xA400#16, fun w _ => .ok (.xorDirect (decA (bits w 8 8)) (bits w 7 0))⟩,
  ⟨0xFEE0#16, 0x8480#16, fun w _ => withRN w fun n => .xorInd (decA (bits w 8 8)) n (decMod (bits w 4 3))⟩,
  ⟨gXorReg.mask, gXorReg.pattern, fun w _ => .ok (.xorReg (decA (gField gXorReg 0 1 w)) (decReg (gField gXorReg 1 5 w)))⟩,
  ⟨0xFE00#16, 0xA600#16, fun w _ => .ok (.addDirect (decA (bits w 8 8)) (bits w 7 0))⟩,
  ⟨0xFEE0#16, 0x8680#16, fun w _ => withRN w fun n => .addInd (decA (bits w 8 8)) n (decMod (bits w 4 3))⟩,
  ⟨gAddReg.mask, gAddReg.pattern, fun w _ => .ok (.addReg (decA (gField gAddReg 0 1 w)) (decReg (gField gAddReg 1 5 w)))⟩,
  ⟨0xFE00#16, 0xA800#16, fun w _ => .ok (.tst0AccDirect (decA (bits w 8 8)) (bits w 7 0))⟩,
  ⟨0xFEE0#16, 0x8880#16, fun w _ => withRN w fun n => .tst0AccInd (decA (bits w 8 8)) n (decMod (bits w 4 3))⟩,
  ⟨gTst0AccReg.mask, gTst0AccReg.pattern, fun w _ => .ok (.tst0AccReg (decA (gField gTst0AccReg 0 1 w)) (decReg (gField gTst0AccReg 1 5 w)))⟩,
  ⟨0xFE00#16, 0xAA00#16, fun w _ => .ok (.tst1AccDirect (decA (bits w 8 8)) (bits w 7 0))⟩,
  ⟨0xFEE0#16, 0x8A80#16, fun w _ => withRN w fun n => .tst1AccInd (decA (bits w 8 8)) n (decMod (bits w 4 3))⟩,
  ⟨gTst1AccReg.mask, gTst1AccReg.pattern, fun w _ => .ok (.tst1AccReg (decA (gField gTst1AccReg 0 1 w)) (decReg (gField gTst1AccReg 1 5 w)))⟩,
  ⟨0xFE00#16, 0xAC00#16, fun w _ => .ok (.cmpDirect (decA (bits w 8 8)) (bits w 7 0))⟩,
  ⟨0xFEE0#16, 0x8C80#16, fun w _ => withRN w fun n => .cmpInd (decA (bits w 8 8)) n (decMod (bits w 4 3))⟩,
  ⟨gCmpReg.mask, gCmpReg.pattern, fun w _ => .ok (.cmpReg (decA (gField gCmpReg 0 1 w)) (decReg (gField gCmpReg 1 5 w)))⟩,
  ⟨0xFE00#16, 0xAE00#16, fun w _ => .ok (.subDirect (decA (bits w 8 8)) (bits w 7 0))⟩,
  ⟨0xFEE0#16, 0x8E80#16, fun w _ => withRN w fun n => .subInd (decA (bits w 8 8)) n (decMod (bits w 4 3))⟩,
  ⟨gSubReg.mask, gSubReg.pattern, fun w _ => .ok (.subReg (decA (gField gSubReg 0 1 w)) (decReg (gField gSubReg 1 5 w)))⟩,
  ⟨0xFE00#16, 0xB000#16, fun w _ => .ok (.msuDirect (decA (bits w 8 8)) (bits w 7 0))⟩,
  ⟨0xFEE0#16, 0x9080#16, fun w _ => withRN w fun n => .msuInd (decA (bits w 8 8)) n (decMod (bits w 4 3))⟩,
  ⟨gMsuReg.mask, gMsuReg.pattern, fun w _ => .ok (.msuReg (decA (gField gMsuReg 0 1 w)) (decReg (gField gMsuReg 1 5 w)))⟩,
  ⟨0xFE00#16, 0xB200#16, fun w _ => .ok (.addhDirect (decA (bits w 8 8)) (bits w 7 0))⟩,
  ⟨0xFEE0#16, 0x9280#16, fun w _ => withRN w fun n => .addhInd (decA (bits w 8 8)) n (decMod (bits w 4 3))⟩,
  ⟨gAddhReg.mask, gAddhReg.pattern, fun w _ => .ok (.addhReg (decA (gField gAddhReg 0 1 w)) (decReg (gField gAddhReg 1 5 w)))⟩,
  ⟨0xFE00#16, 0xB400#16, fun w _ => .ok (.addlDirect (decA (bits w 8 8)) (bits w 7 0))⟩,
  ⟨0xFEE0#16, 0x9480#16, fun w _ => withRN w fun n => .addlInd (decA (bits w 8 8)) n (decMod (bits w 4 3))⟩,
  ⟨gAddlReg.mask, gAddlReg.pattern, fun w _ => .ok (.addlReg (decA (gField gAddlReg 0 1 w)) (decReg (gField gAddlReg 1 5 w)))⟩,
  ⟨0xFE00#16, 0xB600#16, fun w _ => .ok (.subhDirect (decA (bits w 8 8)) (bits w 7 0))⟩,
  ⟨0xFEE0#16, 0x9680#16, fun w _ => withRN w fun n => .subhInd (decA (bits w 8 8)) n (decMod (bits w 4 3))⟩,
  ⟨gSubhReg.mask, gSubhReg.pattern, fun w _ => .ok (.subhReg (decA (gField gSubhReg 0 1 w)) (decReg (gField gSubhReg 1 5 w)))⟩,
  ⟨0xFE00#16, 0xB800#16, fun w _ => .ok (.sublDirect (decA (bits w 8 8)) (bits w 7 0))⟩,
  ⟨0xFEE0#16, 0x9880#16, fun w _ => withRN w fun n => .sublInd (decA (bits w 8 8)) n (decMod (bits w 4 3))⟩,
  ⟨gSublReg.mask, gSublReg.pattern, fun w _ => .ok (.sublReg (decA (gField gSublReg 0 1 w)) (decReg (gField gSublReg 1 5 w)))⟩,
  ⟨0xFE00#16, 0xBA00#16, fun w _ => .ok (.sqrDirect (bits w 7 0))⟩,
  ⟨0xFEE0#16, 0x9A80#16, fun w _ => withRN w fun n => .sqrInd n (decMod (bits w 4 3))⟩,
  ⟨gSqrReg.mask, gSqrReg.pattern, fun w _ => .ok (.sqrReg (decReg (gField gSqrReg 0 5 w)))⟩,
  ⟨0xFE00#16, 0xBC00#16, fun w _ => .ok (.sqraDirect (decA (bits w 8 8)) (bits w 7 0))⟩,
  ⟨0xFEE0#16, 0x9C80#16, fun w _ => withRN w fun n => .sqraInd (decA (bits w 8 8)) n (decMod (bits w 4 3))⟩,
  ⟨gSqraReg.mask, gSqraReg.pattern, fun w _ => .ok (.sqraReg (decA (gField gSqraReg 0 1 w)) (decReg (gField gSqraReg 1 5 w)))⟩,
  ⟨0xFE00#16, 0xBE00#16, fun w _ => .ok (.cmpuDirect (decA (bits w 8 8)) (bits w 7 0))⟩,
  ⟨0xFEE0#16, 0x9E80#16, fun w _ => withRN w fun n => .cmpuInd (decA (bits w 8 8)) n (decMod (bits w 4 3))⟩,
  ⟨gCmpuReg.mask, gCmpuReg.pattern, fun w _ => .ok (.cmpuReg (decA (gField gCmpuReg 0 1 w)) (decReg (gField gCmpuReg 1 5 w)))⟩]

/-- ALU group (R146). -/
def rowsAlu : List OpRow := [
  ⟨0xFE00#16, 0xC000#16, fun w _ => .ok (.orShort (decA (bits w 8 8)) (bits w 7 0))⟩,
  ⟨0xFEFF#16, 0x80C0#16, fun w w2 => .ok (.orLong (decA (bits w 8 8)) w2)⟩,
  ⟨0xFE80#16, 0x4000#16, fun w _ => .ok (.orRbShort (decA (bits w 8 8)) (bits w 6 0))⟩,
  ⟨0xFEFF#16, 0xD4D8#16, fun w w2 => .ok (.orRbLong (decA (bits w 8 8)) w2)⟩,
  ⟨0xFEFF#16, 0xD4F8#16, fun w w2 => .ok (.orLongDirect (decA (bits w 8 8)) w2)⟩,
  ⟨0xFE00#16, 0xC200#16, fun w _ => .ok (.andShort (decA (bits w 8 8)) (bits w 7 0))⟩,
  ⟨0xFEFF#16, 0x82C0#16, fun w w2 => .ok (.andLong (decA (bits w 8 8)) w2)⟩,
  ⟨0xFE80#16, 0x4200#16, fun w _ => .ok (.andRbShort (decA (bits w 8 8)) (bits w 6 0))⟩,
  ⟨0xFEFF#16, 0xD4D9#16, fun w w2 => .ok (.andRbLong (decA (bits w 8 8)) w2)⟩,
  ⟨0xFEFF#16, 0xD4F9#16, fun w w2 => .ok (.andLongDirect (decA (bits w 8 8)) w2)⟩,
  ⟨0xFE00#16, 0xC400#16, fun w _ => .ok (.xorShort (decA (bits w 8 8)) (bits w 7 0))⟩,
  ⟨0xFEFF#16, 0x84C0#16, fun w w2 => .ok (.xorLong (decA (bits w 8 8)) w2)⟩,
  ⟨0xFE80#16, 0x4400#16, fun w _ => .ok (.xorRbShort (decA (bits w 8 8)) (bits w 6 0))⟩,
  ⟨0xFEFF#16, 0xD4DA#16, fun w w2 => .ok (.xorRbLong (decA (bits w 8 8)) w2)⟩,
  ⟨0xFEFF#16, 0xD4FA#16, fun w w2 => .ok (.xorLongDirect (decA (bits w 8 8)) w2)⟩,
  ⟨0xFE00#16, 0xC600#16, fun w _ => .ok (.addShort (decA (bits w 8 8)) (bits w 7 0))⟩,
  ⟨0xFEFF#16, 0x86C0#16, fun w w2 => .ok (.addLong (decA (bits w 8 8)) w2)⟩,
  ⟨0xFE80#16, 0x4600#16, fun w _ => .ok (.addRbShort (decA (bits w 8 8)) (bits w 6 0))⟩,
  ⟨0xFEFF#16, 0xD4DB#16, fun w w2 => .ok (.addRbLong (decA (bits w 8 8)) w2)⟩,
  ⟨0xFEFF#16, 0xD4FB#16, fun w w2 => .ok (.addLongDirect (decA (bits w 8 8)) w2)⟩,
  ⟨0xFE00#16, 0xCC00#16, fun w _ => .ok (.cmpShort (decA (bits w 8 8)) (bits w 7 0))⟩,
  ⟨0xFEFF#16, 0x8CC0#16, fun w w2 => .ok (.cmpLong (decA (bits w 8 8)) w2)⟩,
  ⟨0xFE80#16, 0x4C00#16, fun w _ => .ok (.cmpRbShort (decA (bits w 8 8)) (bits w 6 0))⟩,
  ⟨0xFEFF#16, 0xD4DE#16, fun w w2 => .ok (.cmpRbLong (decA (bits w 8 8)) w2)⟩,
  ⟨0xFEFF#16, 0xD4FE#16, fun w w2 => .ok (.cmpLongDirect (decA (bits w 8 8)) w2)⟩,
  ⟨0xFE00#16, 0xCE00#16, fun w _ => .ok (.subShort (decA (bits w 8 8)) (bits w 7 0))⟩,
  ⟨0xFEFF#16, 0x8EC0#16, fun w w2 => .ok (.subLong (decA (bits w 8 8)) w2)⟩,
  ⟨0xFE80#16, 0x4E00#16, fun w _ => .ok (.subRbShort (decA (bits w 8 8)) (bits w 6 0))⟩,
  ⟨0xFEFF#16, 0xD4DF#16, fun w w2 => .ok (.subRbLong (decA (bits w 8 8)) w2)⟩,
  ⟨0xFEFF#16, 0xD4FF#16, fun w w2 => .ok (.subLongDirect (decA (bits w 8 8)) w2)⟩]

/-- moda and modb (R142, R154). -/
def rowsMod : List OpRow := [
  ⟨gShrA.mask, gShrA.pattern, fun w _ => .ok (.shrA (decA (gField gShrA 0 1 w)) (decCond (gField gShrA 1 4 w)))⟩,
  ⟨gShr4A.mask, gShr4A.pattern, fun w _ => .ok (.shr4A (decA (gField gShr4A 0 1 w)) (decCond (gField gShr4A 1 4 w)))⟩,
  ⟨gShlA.mask, gShlA.pattern, fun w _ => .ok (.shlA (decA (gField gShlA 0 1 w)) (decCond (gField gShlA 1 4 w)))⟩,
  ⟨gShl4A.mask, gShl4A.pattern, fun w _ => .ok (.shl4A (decA (gField gShl4A 0 1 w)) (decCond (gField gShl4A 1 4 w)))⟩,
  ⟨gRorA.mask, gRorA.pattern, fun w _ => .ok (.rorA (decA (gField gRorA 0 1 w)) (decCond (gField gRorA 1 4 w)))⟩,
  ⟨gRolA.mask, gRolA.pattern, fun w _ => .ok (.rolA (decA (gField gRolA 0 1 w)) (decCond (gField gRolA 1 4 w)))⟩,
  ⟨gClrA.mask, gClrA.pattern, fun w _ => .ok (.clrA (decA (gField gClrA 0 1 w)) (decCond (gField gClrA 1 4 w)))⟩,
  ⟨gNotA.mask, gNotA.pattern, fun w _ => .ok (.notA (decA (gField gNotA 0 1 w)) (decCond (gField gNotA 1 4 w)))⟩,
  ⟨gNegA.mask, gNegA.pattern, fun w _ => .ok (.negA (decA (gField gNegA 0 1 w)) (decCond (gField gNegA 1 4 w)))⟩,
  ⟨gRndA.mask, gRndA.pattern, fun w _ => .ok (.rndA (decA (gField gRndA 0 1 w)) (decCond (gField gRndA 1 4 w)))⟩,
  ⟨gPacrA.mask, gPacrA.pattern, fun w _ => .ok (.pacrA (decA (gField gPacrA 0 1 w)) (decCond (gField gPacrA 1 4 w)))⟩,
  ⟨gClrrA.mask, gClrrA.pattern, fun w _ => .ok (.clrrA (decA (gField gClrrA 0 1 w)) (decCond (gField gClrrA 1 4 w)))⟩,
  ⟨gIncA.mask, gIncA.pattern, fun w _ => .ok (.incA (decA (gField gIncA 0 1 w)) (decCond (gField gIncA 1 4 w)))⟩,
  ⟨gDecA.mask, gDecA.pattern, fun w _ => .ok (.decA (decA (gField gDecA 0 1 w)) (decCond (gField gDecA 1 4 w)))⟩,
  ⟨gCopyA.mask, gCopyA.pattern, fun w _ => .ok (.copyA (decA (gField gCopyA 0 1 w)) (decCond (gField gCopyA 1 4 w)))⟩,
  ⟨0xEFF0#16, 0x6F00#16, fun w _ => .ok (.shrB (decB (bits w 12 12)) (decCond (bits w 3 0)))⟩,
  ⟨0xEFF0#16, 0x6F10#16, fun w _ => .ok (.shr4B (decB (bits w 12 12)) (decCond (bits w 3 0)))⟩,
  ⟨0xEFF0#16, 0x6F20#16, fun w _ => .ok (.shlB (decB (bits w 12 12)) (decCond (bits w 3 0)))⟩,
  ⟨0xEFF0#16, 0x6F30#16, fun w _ => .ok (.shl4B (decB (bits w 12 12)) (decCond (bits w 3 0)))⟩,
  ⟨0xEFF0#16, 0x6F40#16, fun w _ => .ok (.rorB (decB (bits w 12 12)) (decCond (bits w 3 0)))⟩,
  ⟨0xEFF0#16, 0x6F50#16, fun w _ => .ok (.rolB (decB (bits w 12 12)) (decCond (bits w 3 0)))⟩,
  ⟨0xEFF0#16, 0x6F60#16, fun w _ => .ok (.clrB (decB (bits w 12 12)) (decCond (bits w 3 0)))⟩]

/-- ALB group (R147). -/
def rowsAlb : List OpRow := [
  ⟨0xFFE0#16, 0x80E0#16, fun w w2 => withRN w fun n => .setInd w2 n (decMod (bits w 4 3))⟩,
  ⟨0xFFE0#16, 0x81E0#16, fun w w2 => .ok (.setReg w2 (decReg (bits w 4 0)))⟩,
  ⟨0xFF00#16, 0xE100#16, fun w w2 => .ok (.setDirect w2 (bits w 7 0))⟩,
  ⟨0xFFE0#16, 0x82E0#16, fun w w2 => withRN w fun n => .rstInd w2 n (decMod (bits w 4 3))⟩,
  ⟨0xFFE0#16, 0x83E0#16, fun w w2 => .ok (.rstReg w2 (decReg (bits w 4 0)))⟩,
  ⟨0xFF00#16, 0xE300#16, fun w w2 => .ok (.rstDirect w2 (bits w 7 0))⟩,
  ⟨0xFFE0#16, 0x84E0#16, fun w w2 => withRN w fun n => .chngInd w2 n (decMod (bits w 4 3))⟩,
  ⟨0xFFE0#16, 0x85E0#16, fun w w2 => .ok (.chngReg w2 (decReg (bits w 4 0)))⟩,
  ⟨0xFF00#16, 0xE500#16, fun w w2 => .ok (.chngDirect w2 (bits w 7 0))⟩,
  ⟨0xFFE0#16, 0x86E0#16, fun w w2 => withRN w fun n => .addvInd w2 n (decMod (bits w 4 3))⟩,
  ⟨0xFFE0#16, 0x87E0#16, fun w w2 => .ok (.addvReg w2 (decReg (bits w 4 0)))⟩,
  ⟨0xFF00#16, 0xE700#16, fun w w2 => .ok (.addvDirect w2 (bits w 7 0))⟩,
  ⟨0xFFE0#16, 0x88E0#16, fun w w2 => withRN w fun n => .tst0LongInd w2 n (decMod (bits w 4 3))⟩,
  ⟨0xFFE0#16, 0x89E0#16, fun w w2 => .ok (.tst0LongReg w2 (decReg (bits w 4 0)))⟩,
  ⟨0xFF00#16, 0xE900#16, fun w w2 => .ok (.tst0LongDirect w2 (bits w 7 0))⟩,
  ⟨0xFFE0#16, 0x8AE0#16, fun w w2 => withRN w fun n => .tst1LongInd w2 n (decMod (bits w 4 3))⟩,
  ⟨0xFFE0#16, 0x8BE0#16, fun w w2 => .ok (.tst1LongReg w2 (decReg (bits w 4 0)))⟩,
  ⟨0xFF00#16, 0xEB00#16, fun w w2 => .ok (.tst1LongDirect w2 (bits w 7 0))⟩,
  ⟨0xFFE0#16, 0x8CE0#16, fun w w2 => withRN w fun n => .cmpvInd w2 n (decMod (bits w 4 3))⟩,
  ⟨0xFFE0#16, 0x8DE0#16, fun w w2 => .ok (.cmpvReg w2 (decReg (bits w 4 0)))⟩,
  ⟨0xFF00#16, 0xED00#16, fun w w2 => .ok (.cmpvDirect w2 (bits w 7 0))⟩,
  ⟨0xFFE0#16, 0x8EE0#16, fun w w2 => withRN w fun n => .subvInd w2 n (decMod (bits w 4 3))⟩,
  ⟨0xFFE0#16, 0x8FE0#16, fun w w2 => .ok (.subvReg w2 (decReg (bits w 4 0)))⟩,
  ⟨0xFF00#16, 0xEF00#16, fun w w2 => .ok (.subvDirect w2 (bits w 7 0))⟩]

/-- MUL group, msu and mpyi (R148, R154). -/
def rowsMul : List OpRow := [
  ⟨gMpyInd.mask, gMpyInd.pattern, fun w _ => withRNField (gField gMpyInd 1 3 w) fun n => .mpyInd n (decMod (gField gMpyInd 0 2 w))⟩,
  ⟨0xF7E0#16, 0x8040#16, fun w _ => .ok (.mpyReg (decReg (bits w 4 0)))⟩,
  ⟨0xF780#16, 0xD000#16, fun w _ => .ok (.mpyDual (decJ (bits w 2 2)) (decMod (bits w 6 5)) (decI (bits w 1 0)) (decMod (bits w 4 3)))⟩,
  ⟨0xF7E0#16, 0x8000#16, fun w w2 => withRN w fun n => .mpyLong n (decMod (bits w 4 3)) w2⟩,
  ⟨gMpysuInd.mask, gMpysuInd.pattern, fun w _ => withRNField (gField gMpysuInd 1 3 w) fun n => .mpysuInd n (decMod (gField gMpysuInd 0 2 w))⟩,
  ⟨0xF7E0#16, 0x8140#16, fun w _ => .ok (.mpysuReg (decReg (bits w 4 0)))⟩,
  ⟨0xF780#16, 0xD100#16, fun w _ => .ok (.mpysuDual (decJ (bits w 2 2)) (decMod (bits w 6 5)) (decI (bits w 1 0)) (decMod (bits w 4 3)))⟩,
  ⟨0xF7E0#16, 0x8100#16, fun w w2 => withRN w fun n => .mpysuLong n (decMod (bits w 4 3)) w2⟩,
  ⟨gMacInd.mask, gMacInd.pattern, fun w _ => withRNField (gField gMacInd 2 3 w) fun n => .macInd (decA (gField gMacInd 0 1 w)) n (decMod (gField gMacInd 1 2 w))⟩,
  ⟨0xF7E0#16, 0x8240#16, fun w _ => .ok (.macReg (decA (bits w 11 11)) (decReg (bits w 4 0)))⟩,
  ⟨0xF780#16, 0xD200#16, fun w _ => .ok (.macDual (decA (bits w 11 11)) (decJ (bits w 2 2)) (decMod (bits w 6 5)) (decI (bits w 1 0)) (decMod (bits w 4 3)))⟩,
  ⟨0xF7E0#16, 0x8200#16, fun w w2 => withRN w fun n => .macLong (decA (bits w 11 11)) n (decMod (bits w 4 3)) w2⟩,
  ⟨gMacusInd.mask, gMacusInd.pattern, fun w _ => withRNField (gField gMacusInd 2 3 w) fun n => .macusInd (decA (gField gMacusInd 0 1 w)) n (decMod (gField gMacusInd 1 2 w))⟩,
  ⟨0xF7E0#16, 0x8340#16, fun w _ => .ok (.macusReg (decA (bits w 11 11)) (decReg (bits w 4 0)))⟩,
  ⟨0xF780#16, 0xD300#16, fun w _ => .ok (.macusDual (decA (bits w 11 11)) (decJ (bits w 2 2)) (decMod (bits w 6 5)) (decI (bits w 1 0)) (decMod (bits w 4 3)))⟩,
  ⟨0xF7E0#16, 0x8300#16, fun w w2 => withRN w fun n => .macusLong (decA (bits w 11 11)) n (decMod (bits w 4 3)) w2⟩,
  ⟨gMaaInd.mask, gMaaInd.pattern, fun w _ => withRNField (gField gMaaInd 2 3 w) fun n => .maaInd (decA (gField gMaaInd 0 1 w)) n (decMod (gField gMaaInd 1 2 w))⟩,
  ⟨0xF7E0#16, 0x8440#16, fun w _ => .ok (.maaReg (decA (bits w 11 11)) (decReg (bits w 4 0)))⟩,
  ⟨0xF780#16, 0xD400#16, fun w _ => .ok (.maaDual (decA (bits w 11 11)) (decJ (bits w 2 2)) (decMod (bits w 6 5)) (decI (bits w 1 0)) (decMod (bits w 4 3)))⟩,
  ⟨0xF7E0#16, 0x8400#16, fun w w2 => withRN w fun n => .maaLong (decA (bits w 11 11)) n (decMod (bits w 4 3)) w2⟩,
  ⟨gMacuuInd.mask, gMacuuInd.pattern, fun w _ => withRNField (gField gMacuuInd 2 3 w) fun n => .macuuInd (decA (gField gMacuuInd 0 1 w)) n (decMod (gField gMacuuInd 1 2 w))⟩,
  ⟨0xF7E0#16, 0x8540#16, fun w _ => .ok (.macuuReg (decA (bits w 11 11)) (decReg (bits w 4 0)))⟩,
  ⟨0xF780#16, 0xD500#16, fun w _ => .ok (.macuuDual (decA (bits w 11 11)) (decJ (bits w 2 2)) (decMod (bits w 6 5)) (decI (bits w 1 0)) (decMod (bits w 4 3)))⟩,
  ⟨0xF7E0#16, 0x8500#16, fun w w2 => withRN w fun n => .macuuLong (decA (bits w 11 11)) n (decMod (bits w 4 3)) w2⟩,
  ⟨gMacsuInd.mask, gMacsuInd.pattern, fun w _ => withRNField (gField gMacsuInd 2 3 w) fun n => .macsuInd (decA (gField gMacsuInd 0 1 w)) n (decMod (gField gMacsuInd 1 2 w))⟩,
  ⟨0xF7E0#16, 0x8640#16, fun w _ => .ok (.macsuReg (decA (bits w 11 11)) (decReg (bits w 4 0)))⟩,
  ⟨0xF780#16, 0xD600#16, fun w _ => .ok (.macsuDual (decA (bits w 11 11)) (decJ (bits w 2 2)) (decMod (bits w 6 5)) (decI (bits w 1 0)) (decMod (bits w 4 3)))⟩,
  ⟨0xF7E0#16, 0x8600#16, fun w w2 => withRN w fun n => .macsuLong (decA (bits w 11 11)) n (decMod (bits w 4 3)) w2⟩,
  ⟨gMaasuInd.mask, gMaasuInd.pattern, fun w _ => withRNField (gField gMaasuInd 2 3 w) fun n => .maasuInd (decA (gField gMaasuInd 0 1 w)) n (decMod (gField gMaasuInd 1 2 w))⟩,
  ⟨0xF7E0#16, 0x8740#16, fun w _ => .ok (.maasuReg (decA (bits w 11 11)) (decReg (bits w 4 0)))⟩,
  ⟨0xF780#16, 0xD700#16, fun w _ => .ok (.maasuDual (decA (bits w 11 11)) (decJ (bits w 2 2)) (decMod (bits w 6 5)) (decI (bits w 1 0)) (decMod (bits w 4 3)))⟩,
  ⟨0xF7E0#16, 0x8700#16, fun w w2 => withRN w fun n => .maasuLong (decA (bits w 11 11)) n (decMod (bits w 4 3)) w2⟩,
  ⟨0xF700#16, 0xE000#16, fun w _ => .ok (.mpyDirect (bits w 7 0))⟩,
  ⟨0xF700#16, 0xE200#16, fun w _ => .ok (.macDirect (decA (bits w 11 11)) (bits w 7 0))⟩,
  ⟨0xF700#16, 0xE400#16, fun w _ => .ok (.maaDirect (decA (bits w 11 11)) (bits w 7 0))⟩,
  ⟨0xF700#16, 0xE600#16, fun w _ => .ok (.macsuDirect (decA (bits w 11 11)) (bits w 7 0))⟩,
  ⟨0xFF00#16, 0x0800#16, fun w _ => .ok (.mpyi (bits w 7 0))⟩,
  ⟨0xFEE0#16, 0x90C0#16, fun w w2 => withRN w fun n => .msuLong (decA (bits w 8 8)) n (decMod (bits w 4 3)) w2⟩,
  ⟨0xFE80#16, 0xD080#16, fun w _ => .ok (.msuDual (decA (bits w 8 8)) (decJ (bits w 2 2)) (decMod (bits w 6 5)) (decI (bits w 1 0)) (decMod (bits w 4 3)))⟩]

/-- The other arithmetic, shift and test rows (R154). -/
def rowsArith : List OpRow := [
  ⟨gNorm.mask, gNorm.pattern, fun w _ => withRNField (gField gNorm 2 3 w) fun n => .norm (decA (gField gNorm 0 1 w)) n (decMod (gField gNorm 1 2 w))⟩,
  ⟨0xFE00#16, 0x0E00#16, fun w _ => .ok (.divs (decA (bits w 8 8)) (bits w 7 0))⟩,
  ⟨0xFCE7#16, 0x8060#16, fun w _ => .ok (.maxd (decA (bits w 8 8)) (decFlag (bits w 9 9)) (decMod (bits w 4 3)))⟩,
  ⟨0xFCE7#16, 0x8460#16, fun w _ => .ok (.max (decA (bits w 8 8)) (decFlag (bits w 9 9)) (decMod (bits w 4 3)))⟩,
  ⟨gMin.mask, gMin.pattern, fun w _ => .ok (.min (decA (gField gMin 0 1 w)) (decFlag (gField gMin 1 1 w)) (decMod (gField gMin 2 2 w)))⟩,
  ⟨gLim.mask, gLim.pattern, fun w _ => .ok (.lim (decA (gField gLim 0 1 w)) (decA (gField gLim 1 1 w)))⟩,
  ⟨0xF0E0#16, 0x9020#16, fun w _ => withRN w fun n => .tstbInd n (decMod (bits w 4 3)) (bits w 11 8)⟩,
  ⟨0xF0E0#16, 0x9000#16, fun w _ => .ok (.tstbReg (decReg (bits w 4 0)) (bits w 11 8))⟩,
  ⟨0xF000#16, 0xF000#16, fun w _ => .ok (.tstbDirect (bits w 7 0) (bits w 11 8))⟩,
  ⟨0xF390#16, 0xD280#16, fun w _ => .ok (.shfc (decAcc (bits w 11 10)) (decAcc (bits w 6 5)) (decCond (bits w 3 0)))⟩,
  ⟨0xF240#16, 0x9240#16, fun w _ => .ok (.shfi (decAcc (bits w 11 10)) (decAcc (bits w 8 7)) (bits w 5 0))⟩,
  ⟨0xFEE0#16, 0x9840#16, fun w _ => withRN w fun n => .expInd n (decMod (bits w 4 3)) (some (decA (bits w 8 8)))⟩,
  ⟨0xFEE0#16, 0x9040#16, fun w _ => .ok (.expReg (decReg (bits w 4 0)) (some (decA (bits w 8 8))))⟩,
  ⟨0xFEFE#16, 0x9060#16, fun w _ => .ok (.expAcc (decB (bits w 0 0)) (some (decA (bits w 8 8))))⟩,
  ⟨0xFFE0#16, 0x9C40#16, fun w _ => withRN w fun n => .expInd n (decMod (bits w 4 3)) none⟩,
  ⟨0xFFE0#16, 0x9440#16, fun w _ => .ok (.expReg (decReg (bits w 4 0)) none)⟩,
  ⟨0xFFFE#16, 0x9460#16, fun w _ => .ok (.expAcc (decB (bits w 0 0)) none)⟩,
  ⟨0xFF80#16, 0x0100#16, fun w _ => .ok (.movsReg (decReg (bits w 4 0)) (decAcc (bits w 6 5)))⟩,
  ⟨0xFF80#16, 0x0180#16, fun w _ => withRN w fun n => .movsInd n (decMod (bits w 4 3)) (decAcc (bits w 6 5))⟩,
  ⟨0xE700#16, 0x6300#16, fun w _ => .ok (.movsDirect (bits w 7 0) (decAcc (bits w 12 11)))⟩,
  ⟨0xF180#16, 0x4080#16, fun w _ => .ok (.movsi (decStar (bits w 11 9)) (decAcc (bits w 6 5)) (bits w 4 0))⟩]

/-- Move rows (R155). -/
def rowsMove : List OpRow := [
  ⟨0xFC00#16, 0x5800#16, fun w _ => .ok (.movRegReg (decReg (bits w 4 0)) (decReg (bits w 9 5)))⟩,
  ⟨0xF39F#16, 0xD290#16, fun w _ => .ok (.movAccAcc (decAcc (bits w 11 10)) (decAcc (bits w 6 5)))⟩,
  ⟨gMovAccDvm.mask, gMovAccDvm.pattern, fun w _ => .ok (.movAccDvm (decAcc (gField gMovAccDvm 0 2 w)))⟩,
  ⟨gMovAccX.mask, gMovAccX.pattern, fun w _ => .ok (.movAccX (decAcc (gField gMovAccX 0 2 w)))⟩,
  ⟨0xFFC0#16, 0x5EC0#16, fun w _ => .ok (.movRegB (decReg (bits w 4 0)) (decB (bits w 5 5)))⟩,
  ⟨gMovRegMixp.mask, gMovRegMixp.pattern, fun w _ => .ok (.movRegMixp (decReg (gField gMovRegMixp 0 5 w)))⟩,
  ⟨0xFC00#16, 0x1800#16, fun w _ => withRN w fun n => .movRegInd (decReg (bits w 9 5)) n (decMod (bits w 4 3))⟩,
  ⟨0xFFE0#16, 0x47C0#16, fun w _ => .ok (.movMixpReg (decReg (bits w 4 0)))⟩,
  ⟨0xFF9F#16, 0xD490#16, fun w _ => .ok (.movSpecAcc .repc (decAcc (bits w 6 5)))⟩,
  ⟨0xFF9F#16, 0xD491#16, fun w _ => .ok (.movSpecAcc .dvm (decAcc (bits w 6 5)))⟩,
  ⟨0xFF9F#16, 0xD492#16, fun w _ => .ok (.movIcrAcc (decAcc (bits w 6 5)))⟩,
  ⟨0xFF9F#16, 0xD493#16, fun w _ => .ok (.movSpecAcc .x (decAcc (bits w 6 5)))⟩,
  ⟨0xFC00#16, 0x1C00#16, fun w _ => withRN w fun n => .movIndReg n (decMod (bits w 4 3)) (decReg (bits w 9 5))⟩,
  ⟨0xFEE0#16, 0x98C0#16, fun w _ => withRN w fun n => .movIndB n (decMod (bits w 4 3)) (decB (bits w 8 8))⟩,
  ⟨0xFFE0#16, 0x47E0#16, fun w _ => .ok (.movSpReg (decReg (bits w 4 0)))⟩,
  ⟨0xF100#16, 0x2000#16, fun w _ => .ok (.movRnDirect (decStar (bits w 11 9)) (bits w 7 0))⟩,
  ⟨0xF100#16, 0x3000#16, fun w _ => .ok (.movHalfDirect (decAcc (bits w 11 10)) (decHalf (bits w 9 9)) (bits w 7 0))⟩,
  ⟨0xE300#16, 0x6000#16, fun w _ => .ok (.movDirectRn (bits w 7 0) (decStar (bits w 12 10)))⟩,
  ⟨0xE700#16, 0x6100#16, fun w _ => .ok (.movDirectAcc (bits w 7 0) (decAcc (bits w 12 11)))⟩,
  ⟨0xE300#16, 0x6200#16, fun w _ => .ok (.movDirectHalf (bits w 7 0) (decAcc (bits w 12 11)) (decHalf (bits w 10 10)))⟩,
  ⟨0xEF00#16, 0x6500#16, fun w _ => .ok (.movDirectHighEu (bits w 7 0) (decA (bits w 12 12)))⟩,
  ⟨0xFF00#16, 0x6D00#16, fun w _ => .ok (.movDirectSv (bits w 7 0))⟩,
  ⟨0xFF00#16, 0x7D00#16, fun w _ => .ok (.movSvDirect (bits w 7 0))⟩,
  ⟨0xFEFC#16, 0xD4B8#16, fun w w2 => .ok (.movLongDirectA w2 (decA (bits w 8 8)))⟩,
  ⟨0xFEFC#16, 0xD4BC#16, fun w w2 => .ok (.movALongDirect (decA (bits w 8 8)) w2)⟩,
  ⟨0xFEE0#16, 0x5E00#16, fun w w2 => .ok (.movLongReg w2 (decReg (bits w 4 0)))⟩,
  ⟨0xFEE0#16, 0x5E20#16, fun w w2 => .ok (.movLongB w2 (decB (bits w 8 8)))⟩,
  ⟨0xEF00#16, 0x2100#16, fun w _ => .ok (.movShortHalf (bits w 7 0) (decA (bits w 12 12)) .lo)⟩,
  ⟨0xEF00#16, 0x2500#16, fun w _ => .ok (.movShortHalf (bits w 7 0) (decA (bits w 12 12)) .hi)⟩,
  ⟨0xE300#16, 0x2300#16, fun w _ => .ok (.movShortRn (bits w 7 0) (decStar (bits w 12 10)))⟩,
  ⟨0xEB00#16, 0x2900#16, fun w _ => .ok (.movShortExt (bits w 7 0) (bits w 12 12 ++ bits w 10 10))⟩,
  ⟨0xFF00#16, 0x0500#16, fun w _ => .ok (.movShortSv (bits w 7 0))⟩,
  ⟨gMovRegIcr.mask, gMovRegIcr.pattern, fun w _ => .ok (.movRegIcr (decReg (gField gMovRegIcr 0 5 w)))⟩,
  ⟨gMovShortIcr.mask, gMovShortIcr.pattern, fun w _ => .ok (.movShortIcr (gField gMovShortIcr 0 5 w))⟩,
  ⟨0xFE80#16, 0xD880#16, fun w _ => .ok (.movRbShortA (bits w 6 0) (decA (bits w 8 8)))⟩,
  ⟨0xFE80#16, 0xDC80#16, fun w _ => .ok (.movARbShort (decA (bits w 8 8)) (bits w 6 0))⟩,
  ⟨0xFEFC#16, 0xD498#16, fun w w2 => .ok (.movRbLongA w2 (decA (bits w 8 8)))⟩,
  ⟨gMovARbLong.mask, gMovARbLong.pattern, fun w w2 => .ok (.movARbLong (decA (gField gMovARbLong 0 1 w)) w2)⟩,
  ⟨0xFFC0#16, 0x0040#16, fun w _ => .ok (.movpAccReg (decA (bits w 5 5)) (decReg (bits w 4 0)))⟩,
  ⟨0xFE00#16, 0x0600#16, fun w _ => withRN w fun n => .movpIndInd n (decMod (bits w 4 3)) (decI (bits w 6 5)) (decMod (bits w 8 7))⟩,
  ⟨0xFEE0#16, 0x9CC0#16, fun w _ => .ok (.movrReg (decReg (bits w 4 0)) (decA (bits w 8 8)))⟩,
  ⟨0xFEE0#16, 0x9CE0#16, fun w _ => withRN w fun n => .movrInd n (decMod (bits w 4 3)) (decA (bits w 8 8))⟩,
  ⟨0xFFE0#16, 0x5E40#16, fun w _ => .ok (.pushReg (decReg (bits w 4 0)))⟩,
  ⟨0xFFC0#16, 0x5F40#16, fun _ w2 => .ok (.pushLong w2)⟩,
  ⟨0xFFE0#16, 0x5E60#16, fun w _ => .ok (.pop (decReg (bits w 4 0)))⟩,
  ⟨0xFFC0#16, 0x4980#16, fun w _ => withSwap w fun p => .swap p⟩,
  ⟨0xFF80#16, 0x4B80#16, fun w _ => .ok (.banke (bits w 3 0))⟩,
  ⟨0xFF80#16, 0x5F80#16, fun w _ => .ok (.movd (decI (bits w 1 0)) (decMod (bits w 4 3)) (decJ (bits w 2 2)) (decMod (bits w 6 5)))⟩,
  ⟨gModr.mask, gModr.pattern, fun w _ => withRNField (gField gModr 2 3 w) fun n => .modr n (decMod (gField gModr 0 2 w)) (decFlag (gField gModr 1 1 w))⟩,
  ⟨0xFF00#16, 0x0400#16, fun w _ => .ok (.loadPage (bits w 7 0))⟩,
  ⟨0xF600#16, 0x0200#16, fun w _ => .ok (.loadMod (decFlag (bits w 11 11)) (bits w 8 0))⟩,
  ⟨0xFB80#16, 0xDB80#16, fun w _ => .ok (.loadStep (decFlag (bits w 10 10)) (bits w 6 0))⟩,
  ⟨0xFFFC#16, 0x4D80#16, fun w _ => .ok (.loadPs (bits w 1 0))⟩]

/-- Program control rows (R156). -/
def rowsControl : List OpRow := [
  ⟨0xFF00#16, 0x0D00#16, fun w _ => .ok (.repReg (decReg (bits w 4 0)))⟩,
  ⟨0xFF00#16, 0x0C00#16, fun w _ => .ok (.repShort (bits w 7 0))⟩,
  ⟨0xFF00#16, 0x5C00#16, fun w w2 => .ok (.bkrepShort (bits w 7 0) w2)⟩,
  ⟨0xFFE0#16, 0x5D00#16, fun w w2 => .ok (.bkrepReg (decReg (bits w 4 0)) w2)⟩,
  ⟨0xFFC0#16, 0xD3C0#16, fun _ _ => .ok .brk⟩,
  ⟨0xFFF0#16, 0x4180#16, fun w w2 => .ok (.br w2 (decCond (bits w 3 0)))⟩,
  ⟨0xF800#16, 0x5000#16, fun w _ => .ok (.brr (bits w 10 4) (decCond (bits w 3 0)))⟩,
  ⟨0xFFF0#16, 0x41C0#16, fun w w2 => .ok (.call w2 (decCond (bits w 3 0)))⟩,
  ⟨0xF800#16, 0x1000#16, fun w _ => .ok (.callr (bits w 10 4) (decCond (bits w 3 0)))⟩,
  ⟨0xFEFF#16, 0xD480#16, fun w _ => .ok (.calla (decA (bits w 8 8)))⟩,
  ⟨0xFFF0#16, 0x4580#16, fun w _ => .ok (.ret (decCond (bits w 3 0)))⟩,
  ⟨0xFFC0#16, 0xD780#16, fun _ _ => .ok .retd⟩,
  ⟨gReti.mask, gReti.pattern, fun w _ => .ok (.reti (decCond (gField gReti 0 4 w)) (decFlag (gField gReti 1 1 w)))⟩,
  ⟨0xFFFF#16, 0xD7C0#16, fun _ _ => .ok .retid⟩,
  ⟨0xFFEF#16, 0xD380#16, fun w _ => .ok (.cntx (decFlag (bits w 4 4)))⟩,
  ⟨0xFF00#16, 0x0900#16, fun w _ => .ok (.rets (bits w 7 0))⟩,
  ⟨0xFFFF#16, 0x0000#16, fun _ _ => .ok .nop⟩,
  ⟨0xFFFF#16, 0x4380#16, fun _ _ => .ok .eint⟩,
  ⟨0xFFFF#16, 0x43C0#16, fun _ _ => .ok .dint⟩,
  ⟨0xFFFF#16, 0x0020#16, fun _ _ => .ok .trap⟩]

/-- The whole opcode table. -/
def opRows : List OpRow :=
  rowsAlm ++ rowsAlu ++ rowsMod ++ rowsAlb ++ rowsMul ++ rowsArith ++ rowsMove ++ rowsControl

/-- A word is of a row when its fixed bits are the row's (R132). -/
def rowMatches (r : OpRow) (w : Word) : Bool := (w &&& r.mask) == r.pattern

/-- Decodes the instruction whose first word is `w`; `w2` is the word after it, which a one-word instruction does
not look at. No word matches two rows, so the order of the rows does not matter (R132). -/
def decode (w w2 : Word) : Except DecodeError Instr :=
  match opRows.find? (fun r => rowMatches r w) with
  | some r => r.build w w2
  | none => .error .reservedOpcode

/-- `decode` on an instruction given as the number spec/opcode_table.json numbers: the first word in bits 15 to 0,
the second in bits 31 to 16. The hardware stores the first word at the lower address (R86). -/
def decodeTableWord (_nbits w : Nat) : Option Instr :=
  match decode (BitVec.ofNat 16 w) (BitVec.ofNat 16 (w / 65536)) with
  | .ok i => some i
  | .error _ => none

/-! ## Encoding -/

/-- One bit of a field. -/
def bits1 (v : BitVec 2) (k : Nat) : BitVec 1 := BitVec.ofBool (v.getLsbD k)

/-- The words of an instruction: the opcode word, and the second word of a two-word instruction. Don't-care bits
and the A bit of sqr, mpy, mpysu are written 0 (R131, D15). -/
def encode : Instr → List Word
  | .orDirect a d => [(0b1010000#7 ++ encA a ++ d : Word)]
  | .orInd a n m => [(0b1000000#7 ++ encA a ++ 0b100#3 ++ encMod m ++ encRN n : Word)]
  | .orReg a r => [gPut gOrReg 1 (encReg r) (gPut gOrReg 0 (encA a) gOrReg.pattern)]
  | .andDirect a d => [(0b1010001#7 ++ encA a ++ d : Word)]
  | .andInd a n m => [(0b1000001#7 ++ encA a ++ 0b100#3 ++ encMod m ++ encRN n : Word)]
  | .andReg a r => [gPut gAndReg 1 (encReg r) (gPut gAndReg 0 (encA a) gAndReg.pattern)]
  | .xorDirect a d => [(0b1010010#7 ++ encA a ++ d : Word)]
  | .xorInd a n m => [(0b1000010#7 ++ encA a ++ 0b100#3 ++ encMod m ++ encRN n : Word)]
  | .xorReg a r => [gPut gXorReg 1 (encReg r) (gPut gXorReg 0 (encA a) gXorReg.pattern)]
  | .addDirect a d => [(0b1010011#7 ++ encA a ++ d : Word)]
  | .addInd a n m => [(0b1000011#7 ++ encA a ++ 0b100#3 ++ encMod m ++ encRN n : Word)]
  | .addReg a r => [gPut gAddReg 1 (encReg r) (gPut gAddReg 0 (encA a) gAddReg.pattern)]
  | .tst0AccDirect a d => [(0b1010100#7 ++ encA a ++ d : Word)]
  | .tst0AccInd a n m => [(0b1000100#7 ++ encA a ++ 0b100#3 ++ encMod m ++ encRN n : Word)]
  | .tst0AccReg a r => [gPut gTst0AccReg 1 (encReg r) (gPut gTst0AccReg 0 (encA a) gTst0AccReg.pattern)]
  | .tst1AccDirect a d => [(0b1010101#7 ++ encA a ++ d : Word)]
  | .tst1AccInd a n m => [(0b1000101#7 ++ encA a ++ 0b100#3 ++ encMod m ++ encRN n : Word)]
  | .tst1AccReg a r => [gPut gTst1AccReg 1 (encReg r) (gPut gTst1AccReg 0 (encA a) gTst1AccReg.pattern)]
  | .cmpDirect a d => [(0b1010110#7 ++ encA a ++ d : Word)]
  | .cmpInd a n m => [(0b1000110#7 ++ encA a ++ 0b100#3 ++ encMod m ++ encRN n : Word)]
  | .cmpReg a r => [gPut gCmpReg 1 (encReg r) (gPut gCmpReg 0 (encA a) gCmpReg.pattern)]
  | .subDirect a d => [(0b1010111#7 ++ encA a ++ d : Word)]
  | .subInd a n m => [(0b1000111#7 ++ encA a ++ 0b100#3 ++ encMod m ++ encRN n : Word)]
  | .subReg a r => [gPut gSubReg 1 (encReg r) (gPut gSubReg 0 (encA a) gSubReg.pattern)]
  | .msuDirect a d => [(0b1011000#7 ++ encA a ++ d : Word)]
  | .msuInd a n m => [(0b1001000#7 ++ encA a ++ 0b100#3 ++ encMod m ++ encRN n : Word)]
  | .msuReg a r => [gPut gMsuReg 1 (encReg r) (gPut gMsuReg 0 (encA a) gMsuReg.pattern)]
  | .addhDirect a d => [(0b1011001#7 ++ encA a ++ d : Word)]
  | .addhInd a n m => [(0b1001001#7 ++ encA a ++ 0b100#3 ++ encMod m ++ encRN n : Word)]
  | .addhReg a r => [gPut gAddhReg 1 (encReg r) (gPut gAddhReg 0 (encA a) gAddhReg.pattern)]
  | .addlDirect a d => [(0b1011010#7 ++ encA a ++ d : Word)]
  | .addlInd a n m => [(0b1001010#7 ++ encA a ++ 0b100#3 ++ encMod m ++ encRN n : Word)]
  | .addlReg a r => [gPut gAddlReg 1 (encReg r) (gPut gAddlReg 0 (encA a) gAddlReg.pattern)]
  | .subhDirect a d => [(0b1011011#7 ++ encA a ++ d : Word)]
  | .subhInd a n m => [(0b1001011#7 ++ encA a ++ 0b100#3 ++ encMod m ++ encRN n : Word)]
  | .subhReg a r => [gPut gSubhReg 1 (encReg r) (gPut gSubhReg 0 (encA a) gSubhReg.pattern)]
  | .sublDirect a d => [(0b1011100#7 ++ encA a ++ d : Word)]
  | .sublInd a n m => [(0b1001100#7 ++ encA a ++ 0b100#3 ++ encMod m ++ encRN n : Word)]
  | .sublReg a r => [gPut gSublReg 1 (encReg r) (gPut gSublReg 0 (encA a) gSublReg.pattern)]
  | .sqrDirect d => [(0b10111010#8 ++ d : Word)]
  | .sqrInd n m => [(0b10011010100#11 ++ encMod m ++ encRN n : Word)]
  | .sqrReg r => [gPut gSqrReg 0 (encReg r) gSqrReg.pattern]
  | .sqraDirect a d => [(0b1011110#7 ++ encA a ++ d : Word)]
  | .sqraInd a n m => [(0b1001110#7 ++ encA a ++ 0b100#3 ++ encMod m ++ encRN n : Word)]
  | .sqraReg a r => [gPut gSqraReg 1 (encReg r) (gPut gSqraReg 0 (encA a) gSqraReg.pattern)]
  | .cmpuDirect a d => [(0b1011111#7 ++ encA a ++ d : Word)]
  | .cmpuInd a n m => [(0b1001111#7 ++ encA a ++ 0b100#3 ++ encMod m ++ encRN n : Word)]
  | .cmpuReg a r => [gPut gCmpuReg 1 (encReg r) (gPut gCmpuReg 0 (encA a) gCmpuReg.pattern)]
  | .orShort a v => [(0b1100000#7 ++ encA a ++ v : Word)]
  | .orLong a v => [(0b1000000#7 ++ encA a ++ 0b11000000#8 : Word), v]
  | .orRbShort a o => [(0b0100000#7 ++ encA a ++ 0b0#1 ++ o : Word)]
  | .orRbLong a o => [(0b1101010#7 ++ encA a ++ 0b11011000#8 : Word), o]
  | .orLongDirect a addr => [(0b1101010#7 ++ encA a ++ 0b11111000#8 : Word), addr]
  | .andShort a v => [(0b1100001#7 ++ encA a ++ v : Word)]
  | .andLong a v => [(0b1000001#7 ++ encA a ++ 0b11000000#8 : Word), v]
  | .andRbShort a o => [(0b0100001#7 ++ encA a ++ 0b0#1 ++ o : Word)]
  | .andRbLong a o => [(0b1101010#7 ++ encA a ++ 0b11011001#8 : Word), o]
  | .andLongDirect a addr => [(0b1101010#7 ++ encA a ++ 0b11111001#8 : Word), addr]
  | .xorShort a v => [(0b1100010#7 ++ encA a ++ v : Word)]
  | .xorLong a v => [(0b1000010#7 ++ encA a ++ 0b11000000#8 : Word), v]
  | .xorRbShort a o => [(0b0100010#7 ++ encA a ++ 0b0#1 ++ o : Word)]
  | .xorRbLong a o => [(0b1101010#7 ++ encA a ++ 0b11011010#8 : Word), o]
  | .xorLongDirect a addr => [(0b1101010#7 ++ encA a ++ 0b11111010#8 : Word), addr]
  | .addShort a v => [(0b1100011#7 ++ encA a ++ v : Word)]
  | .addLong a v => [(0b1000011#7 ++ encA a ++ 0b11000000#8 : Word), v]
  | .addRbShort a o => [(0b0100011#7 ++ encA a ++ 0b0#1 ++ o : Word)]
  | .addRbLong a o => [(0b1101010#7 ++ encA a ++ 0b11011011#8 : Word), o]
  | .addLongDirect a addr => [(0b1101010#7 ++ encA a ++ 0b11111011#8 : Word), addr]
  | .cmpShort a v => [(0b1100110#7 ++ encA a ++ v : Word)]
  | .cmpLong a v => [(0b1000110#7 ++ encA a ++ 0b11000000#8 : Word), v]
  | .cmpRbShort a o => [(0b0100110#7 ++ encA a ++ 0b0#1 ++ o : Word)]
  | .cmpRbLong a o => [(0b1101010#7 ++ encA a ++ 0b11011110#8 : Word), o]
  | .cmpLongDirect a addr => [(0b1101010#7 ++ encA a ++ 0b11111110#8 : Word), addr]
  | .subShort a v => [(0b1100111#7 ++ encA a ++ v : Word)]
  | .subLong a v => [(0b1000111#7 ++ encA a ++ 0b11000000#8 : Word), v]
  | .subRbShort a o => [(0b0100111#7 ++ encA a ++ 0b0#1 ++ o : Word)]
  | .subRbLong a o => [(0b1101010#7 ++ encA a ++ 0b11011111#8 : Word), o]
  | .subLongDirect a addr => [(0b1101010#7 ++ encA a ++ 0b11111111#8 : Word), addr]
  | .shrA a cc => [gPut gShrA 1 (encCond cc) (gPut gShrA 0 (encA a) gShrA.pattern)]
  | .shr4A a cc => [gPut gShr4A 1 (encCond cc) (gPut gShr4A 0 (encA a) gShr4A.pattern)]
  | .shlA a cc => [gPut gShlA 1 (encCond cc) (gPut gShlA 0 (encA a) gShlA.pattern)]
  | .shl4A a cc => [gPut gShl4A 1 (encCond cc) (gPut gShl4A 0 (encA a) gShl4A.pattern)]
  | .rorA a cc => [gPut gRorA 1 (encCond cc) (gPut gRorA 0 (encA a) gRorA.pattern)]
  | .rolA a cc => [gPut gRolA 1 (encCond cc) (gPut gRolA 0 (encA a) gRolA.pattern)]
  | .clrA a cc => [gPut gClrA 1 (encCond cc) (gPut gClrA 0 (encA a) gClrA.pattern)]
  | .notA a cc => [gPut gNotA 1 (encCond cc) (gPut gNotA 0 (encA a) gNotA.pattern)]
  | .negA a cc => [gPut gNegA 1 (encCond cc) (gPut gNegA 0 (encA a) gNegA.pattern)]
  | .rndA a cc => [gPut gRndA 1 (encCond cc) (gPut gRndA 0 (encA a) gRndA.pattern)]
  | .pacrA a cc => [gPut gPacrA 1 (encCond cc) (gPut gPacrA 0 (encA a) gPacrA.pattern)]
  | .clrrA a cc => [gPut gClrrA 1 (encCond cc) (gPut gClrrA 0 (encA a) gClrrA.pattern)]
  | .incA a cc => [gPut gIncA 1 (encCond cc) (gPut gIncA 0 (encA a) gIncA.pattern)]
  | .decA a cc => [gPut gDecA 1 (encCond cc) (gPut gDecA 0 (encA a) gDecA.pattern)]
  | .copyA a cc => [gPut gCopyA 1 (encCond cc) (gPut gCopyA 0 (encA a) gCopyA.pattern)]
  | .shrB b cc => [(0b011#3 ++ encB b ++ 0b11110000#8 ++ encCond cc : Word)]
  | .shr4B b cc => [(0b011#3 ++ encB b ++ 0b11110001#8 ++ encCond cc : Word)]
  | .shlB b cc => [(0b011#3 ++ encB b ++ 0b11110010#8 ++ encCond cc : Word)]
  | .shl4B b cc => [(0b011#3 ++ encB b ++ 0b11110011#8 ++ encCond cc : Word)]
  | .rorB b cc => [(0b011#3 ++ encB b ++ 0b11110100#8 ++ encCond cc : Word)]
  | .rolB b cc => [(0b011#3 ++ encB b ++ 0b11110101#8 ++ encCond cc : Word)]
  | .clrB b cc => [(0b011#3 ++ encB b ++ 0b11110110#8 ++ encCond cc : Word)]
  | .norm a n m => [gPut gNorm 2 (encRN n) (gPut gNorm 1 (encMod m) (gPut gNorm 0 (encA a) gNorm.pattern))]
  | .divs a d => [(0b0000111#7 ++ encA a ++ d : Word)]
  | .setInd v n m => [(0b10000000111#11 ++ encMod m ++ encRN n : Word), v]
  | .setReg v r => [(0b10000001111#11 ++ encReg r : Word), v]
  | .setDirect v d => [(0b11100001#8 ++ d : Word), v]
  | .rstInd v n m => [(0b10000010111#11 ++ encMod m ++ encRN n : Word), v]
  | .rstReg v r => [(0b10000011111#11 ++ encReg r : Word), v]
  | .rstDirect v d => [(0b11100011#8 ++ d : Word), v]
  | .chngInd v n m => [(0b10000100111#11 ++ encMod m ++ encRN n : Word), v]
  | .chngReg v r => [(0b10000101111#11 ++ encReg r : Word), v]
  | .chngDirect v d => [(0b11100101#8 ++ d : Word), v]
  | .addvInd v n m => [(0b10000110111#11 ++ encMod m ++ encRN n : Word), v]
  | .addvReg v r => [(0b10000111111#11 ++ encReg r : Word), v]
  | .addvDirect v d => [(0b11100111#8 ++ d : Word), v]
  | .tst0LongInd v n m => [(0b10001000111#11 ++ encMod m ++ encRN n : Word), v]
  | .tst0LongReg v r => [(0b10001001111#11 ++ encReg r : Word), v]
  | .tst0LongDirect v d => [(0b11101001#8 ++ d : Word), v]
  | .tst1LongInd v n m => [(0b10001010111#11 ++ encMod m ++ encRN n : Word), v]
  | .tst1LongReg v r => [(0b10001011111#11 ++ encReg r : Word), v]
  | .tst1LongDirect v d => [(0b11101011#8 ++ d : Word), v]
  | .cmpvInd v n m => [(0b10001100111#11 ++ encMod m ++ encRN n : Word), v]
  | .cmpvReg v r => [(0b10001101111#11 ++ encReg r : Word), v]
  | .cmpvDirect v d => [(0b11101101#8 ++ d : Word), v]
  | .subvInd v n m => [(0b10001110111#11 ++ encMod m ++ encRN n : Word), v]
  | .subvReg v r => [(0b10001111111#11 ++ encReg r : Word), v]
  | .subvDirect v d => [(0b11101111#8 ++ d : Word), v]
  | .maxd a strict m => [(0b100000#6 ++ encFlag strict ++ encA a ++ 0b011#3 ++ encMod m ++ 0b000#3 : Word)]
  | .max a strict m => [(0b100001#6 ++ encFlag strict ++ encA a ++ 0b011#3 ++ encMod m ++ 0b000#3 : Word)]
  | .min a strict m => [gPut gMin 2 (encMod m) (gPut gMin 1 (encFlag strict) (gPut gMin 0 (encA a) gMin.pattern))]
  | .lim src dst => [gPut gLim 1 (encA dst) (gPut gLim 0 (encA src) gLim.pattern)]
  | .mpyInd n m => [gPut gMpyInd 1 (encRN n) (gPut gMpyInd 0 (encMod m) gMpyInd.pattern)]
  | .mpyReg r => [(0b10000000010#11 ++ encReg r : Word)]
  | .mpyDual j mj i mi => [(0b110100000#9 ++ encMod mj ++ encMod mi ++ encJ j ++ encI i : Word)]
  | .mpyLong n m v => [(0b10000000000#11 ++ encMod m ++ encRN n : Word), v]
  | .mpysuInd n m => [gPut gMpysuInd 1 (encRN n) (gPut gMpysuInd 0 (encMod m) gMpysuInd.pattern)]
  | .mpysuReg r => [(0b10000001010#11 ++ encReg r : Word)]
  | .mpysuDual j mj i mi => [(0b110100010#9 ++ encMod mj ++ encMod mi ++ encJ j ++ encI i : Word)]
  | .mpysuLong n m v => [(0b10000001000#11 ++ encMod m ++ encRN n : Word), v]
  | .macInd a n m => [gPut gMacInd 2 (encRN n) (gPut gMacInd 1 (encMod m) (gPut gMacInd 0 (encA a) gMacInd.pattern))]
  | .macReg a r => [(0b1000#4 ++ encA a ++ 0b010010#6 ++ encReg r : Word)]
  | .macDual a j mj i mi => [(0b1101#4 ++ encA a ++ 0b0100#4 ++ encMod mj ++ encMod mi ++ encJ j ++ encI i : Word)]
  | .macLong a n m v => [(0b1000#4 ++ encA a ++ 0b010000#6 ++ encMod m ++ encRN n : Word), v]
  | .macusInd a n m => [gPut gMacusInd 2 (encRN n) (gPut gMacusInd 1 (encMod m) (gPut gMacusInd 0 (encA a) gMacusInd.pattern))]
  | .macusReg a r => [(0b1000#4 ++ encA a ++ 0b011010#6 ++ encReg r : Word)]
  | .macusDual a j mj i mi => [(0b1101#4 ++ encA a ++ 0b0110#4 ++ encMod mj ++ encMod mi ++ encJ j ++ encI i : Word)]
  | .macusLong a n m v => [(0b1000#4 ++ encA a ++ 0b011000#6 ++ encMod m ++ encRN n : Word), v]
  | .maaInd a n m => [gPut gMaaInd 2 (encRN n) (gPut gMaaInd 1 (encMod m) (gPut gMaaInd 0 (encA a) gMaaInd.pattern))]
  | .maaReg a r => [(0b1000#4 ++ encA a ++ 0b100010#6 ++ encReg r : Word)]
  | .maaDual a j mj i mi => [(0b1101#4 ++ encA a ++ 0b1000#4 ++ encMod mj ++ encMod mi ++ encJ j ++ encI i : Word)]
  | .maaLong a n m v => [(0b1000#4 ++ encA a ++ 0b100000#6 ++ encMod m ++ encRN n : Word), v]
  | .macuuInd a n m => [gPut gMacuuInd 2 (encRN n) (gPut gMacuuInd 1 (encMod m) (gPut gMacuuInd 0 (encA a) gMacuuInd.pattern))]
  | .macuuReg a r => [(0b1000#4 ++ encA a ++ 0b101010#6 ++ encReg r : Word)]
  | .macuuDual a j mj i mi => [(0b1101#4 ++ encA a ++ 0b1010#4 ++ encMod mj ++ encMod mi ++ encJ j ++ encI i : Word)]
  | .macuuLong a n m v => [(0b1000#4 ++ encA a ++ 0b101000#6 ++ encMod m ++ encRN n : Word), v]
  | .macsuInd a n m => [gPut gMacsuInd 2 (encRN n) (gPut gMacsuInd 1 (encMod m) (gPut gMacsuInd 0 (encA a) gMacsuInd.pattern))]
  | .macsuReg a r => [(0b1000#4 ++ encA a ++ 0b110010#6 ++ encReg r : Word)]
  | .macsuDual a j mj i mi => [(0b1101#4 ++ encA a ++ 0b1100#4 ++ encMod mj ++ encMod mi ++ encJ j ++ encI i : Word)]
  | .macsuLong a n m v => [(0b1000#4 ++ encA a ++ 0b110000#6 ++ encMod m ++ encRN n : Word), v]
  | .maasuInd a n m => [gPut gMaasuInd 2 (encRN n) (gPut gMaasuInd 1 (encMod m) (gPut gMaasuInd 0 (encA a) gMaasuInd.pattern))]
  | .maasuReg a r => [(0b1000#4 ++ encA a ++ 0b111010#6 ++ encReg r : Word)]
  | .maasuDual a j mj i mi => [(0b1101#4 ++ encA a ++ 0b1110#4 ++ encMod mj ++ encMod mi ++ encJ j ++ encI i : Word)]
  | .maasuLong a n m v => [(0b1000#4 ++ encA a ++ 0b111000#6 ++ encMod m ++ encRN n : Word), v]
  | .mpyDirect d => [(0b11100000#8 ++ d : Word)]
  | .macDirect a d => [(0b1110#4 ++ encA a ++ 0b010#3 ++ d : Word)]
  | .maaDirect a d => [(0b1110#4 ++ encA a ++ 0b100#3 ++ d : Word)]
  | .macsuDirect a d => [(0b1110#4 ++ encA a ++ 0b110#3 ++ d : Word)]
  | .mpyi v => [(0b00001000#8 ++ v : Word)]
  | .msuLong a n m v => [(0b1001000#7 ++ encA a ++ 0b110#3 ++ encMod m ++ encRN n : Word), v]
  | .msuDual a j mj i mi => [(0b1101000#7 ++ encA a ++ 0b1#1 ++ encMod mj ++ encMod mi ++ encJ j ++ encI i : Word)]
  | .tstbInd n m k => [(0b1001#4 ++ k ++ 0b001#3 ++ encMod m ++ encRN n : Word)]
  | .tstbReg r k => [(0b1001#4 ++ k ++ 0b000#3 ++ encReg r : Word)]
  | .tstbDirect d k => [(0b1111#4 ++ k ++ d : Word)]
  | .shfc src dst cc => [(0b1101#4 ++ encAcc src ++ 0b101#3 ++ encAcc dst ++ 0b0#1 ++ encCond cc : Word)]
  | .shfi src dst v => [(0b1001#4 ++ encAcc src ++ 0b1#1 ++ encAcc dst ++ 0b1#1 ++ v : Word)]
  | .expInd n m (some a) => [(0b1001100#7 ++ encA a ++ 0b010#3 ++ encMod m ++ encRN n : Word)]
  | .expInd n m none => [(0b10011100010#11 ++ encMod m ++ encRN n : Word)]
  | .expReg r (some a) => [(0b1001000#7 ++ encA a ++ 0b010#3 ++ encReg r : Word)]
  | .expReg r none => [(0b10010100010#11 ++ encReg r : Word)]
  | .expAcc b (some a) => [(0b1001000#7 ++ encA a ++ 0b0110000#7 ++ encB b : Word)]
  | .expAcc b none => [(0b100101000110000#15 ++ encB b : Word)]
  | .movRegReg src dst => [(0b010110#6 ++ encReg dst ++ encReg src : Word)]
  | .movAccAcc src dst => [(0b1101#4 ++ encAcc src ++ 0b101#3 ++ encAcc dst ++ 0b10000#5 : Word)]
  | .movAccDvm src => [gPut gMovAccDvm 0 (encAcc src) gMovAccDvm.pattern]
  | .movAccX src => [gPut gMovAccX 0 (encAcc src) gMovAccX.pattern]
  | .movRegB r b => [(0b0101111011#10 ++ encB b ++ encReg r : Word)]
  | .movRegMixp r => [gPut gMovRegMixp 0 (encReg r) gMovRegMixp.pattern]
  | .movRegInd r n m => [(0b000110#6 ++ encReg r ++ encMod m ++ encRN n : Word)]
  | .movMixpReg r => [(0b01000111110#11 ++ encReg r : Word)]
  | .movSpecAcc .repc acc => [(0b110101001#9 ++ encAcc acc ++ 0b10000#5 : Word)]
  | .movSpecAcc .dvm acc => [(0b110101001#9 ++ encAcc acc ++ 0b10001#5 : Word)]
  | .movSpecAcc .x acc => [(0b110101001#9 ++ encAcc acc ++ 0b10011#5 : Word)]
  | .movIcrAcc acc => [(0b110101001#9 ++ encAcc acc ++ 0b10010#5 : Word)]
  | .movIndReg n m r => [(0b000111#6 ++ encReg r ++ encMod m ++ encRN n : Word)]
  | .movIndB n m b => [(0b1001100#7 ++ encB b ++ 0b110#3 ++ encMod m ++ encRN n : Word)]
  | .movSpReg r => [(0b01000111111#11 ++ encReg r : Word)]
  | .movRnDirect n d => [(0b0010#4 ++ encStar n ++ 0b0#1 ++ d : Word)]
  | .movHalfDirect acc h d => [(0b0011#4 ++ encAcc acc ++ encHalf h ++ 0b0#1 ++ d : Word)]
  | .movDirectRn d n => [(0b011#3 ++ encStar n ++ 0b00#2 ++ d : Word)]
  | .movDirectAcc d acc => [(0b011#3 ++ encAcc acc ++ 0b001#3 ++ d : Word)]
  | .movDirectHalf d acc h => [(0b011#3 ++ encAcc acc ++ encHalf h ++ 0b10#2 ++ d : Word)]
  | .movDirectHighEu d a => [(0b011#3 ++ encA a ++ 0b0101#4 ++ d : Word)]
  | .movDirectSv d => [(0b01101101#8 ++ d : Word)]
  | .movSvDirect d => [(0b01111101#8 ++ d : Word)]
  | .movLongDirectA addr a => [(0b1101010#7 ++ encA a ++ 0b10111000#8 : Word), addr]
  | .movALongDirect a addr => [(0b1101010#7 ++ encA a ++ 0b10111100#8 : Word), addr]
  | .movLongReg v r => [(0b01011110000#11 ++ encReg r : Word), v]
  | .movLongB v b => [(0b0101111#7 ++ encB b ++ 0b00100000#8 : Word), v]
  | .movShortHalf v a .lo => [(0b001#3 ++ encA a ++ 0b0001#4 ++ v : Word)]
  | .movShortHalf v a .hi => [(0b001#3 ++ encA a ++ 0b0101#4 ++ v : Word)]
  | .movShortRn v n => [(0b001#3 ++ encStar n ++ 0b11#2 ++ v : Word)]
  | .movShortExt v k => [(0b001#3 ++ bits1 k 1 ++ 0b1#1 ++ bits1 k 0 ++ 0b01#2 ++ v : Word)]
  | .movShortSv v => [(0b00000101#8 ++ v : Word)]
  | .movRegIcr r => [gPut gMovRegIcr 0 (encReg r) gMovRegIcr.pattern]
  | .movShortIcr v => [gPut gMovShortIcr 0 v gMovShortIcr.pattern]
  | .movRbShortA o a => [(0b1101100#7 ++ encA a ++ 0b1#1 ++ o : Word)]
  | .movARbShort a o => [(0b1101110#7 ++ encA a ++ 0b1#1 ++ o : Word)]
  | .movRbLongA o a => [(0b1101010#7 ++ encA a ++ 0b10011000#8 : Word), o]
  | .movARbLong a o => [gPut gMovARbLong 0 (encA a) gMovARbLong.pattern, o]
  | .movpAccReg a r => [(0b0000000001#10 ++ encA a ++ encReg r : Word)]
  | .movpIndInd n m i mi => [(0b0000011#7 ++ encMod mi ++ encI i ++ encMod m ++ encRN n : Word)]
  | .movsReg r acc => [(0b000000010#9 ++ encAcc acc ++ encReg r : Word)]
  | .movsInd n m acc => [(0b000000011#9 ++ encAcc acc ++ encMod m ++ encRN n : Word)]
  | .movsDirect d acc => [(0b011#3 ++ encAcc acc ++ 0b011#3 ++ d : Word)]
  | .movsi n acc v => [(0b0100#4 ++ encStar n ++ 0b01#2 ++ encAcc acc ++ v : Word)]
  | .movrReg r a => [(0b1001110#7 ++ encA a ++ 0b110#3 ++ encReg r : Word)]
  | .movrInd n m a => [(0b1001110#7 ++ encA a ++ 0b111#3 ++ encMod m ++ encRN n : Word)]
  | .pushReg r => [(0b01011110010#11 ++ encReg r : Word)]
  | .pushLong v => [(0b0101111101000000#16 : Word), v]
  | .pop r => [(0b01011110011#11 ++ encReg r : Word)]
  | .swap opt => [(0b010010011000#12 ++ encSwap opt : Word)]
  | .banke k => [(0b010010111000#12 ++ k : Word)]
  | .movd i mi j mj => [(0b010111111#9 ++ encMod mj ++ encMod mi ++ encJ j ++ encI i : Word)]
  | .repReg r => [(0b00001101000#11 ++ encReg r : Word)]
  | .repShort v => [(0b00001100#8 ++ v : Word)]
  | .bkrepShort v addr => [(0b01011100#8 ++ v : Word), addr]
  | .bkrepReg r addr => [(0b01011101000#11 ++ encReg r : Word), addr]
  | .br addr cc => [(0b010000011000#12 ++ encCond cc : Word), addr]
  | .brr o cc => [(0b01010#5 ++ o ++ encCond cc : Word)]
  | .call addr cc => [(0b010000011100#12 ++ encCond cc : Word), addr]
  | .callr o cc => [(0b00010#5 ++ o ++ encCond cc : Word)]
  | .calla a => [(0b1101010#7 ++ encA a ++ 0b10000000#8 : Word)]
  | .ret cc => [(0b010001011000#12 ++ encCond cc : Word)]
  | .reti cc ctx => [gPut gReti 1 (encFlag ctx) (gPut gReti 0 (encCond cc) gReti.pattern)]
  | .cntx restore => [(0b11010011100#11 ++ encFlag restore ++ 0b0000#4 : Word)]
  | .rets v => [(0b00001001#8 ++ v : Word)]
  | .modr n m dmod => [gPut gModr 2 (encRN n) (gPut gModr 1 (encFlag dmod) (gPut gModr 0 (encMod m) gModr.pattern))]
  | .loadPage v => [(0b00000100#8 ++ v : Word)]
  | .loadMod j v => [(0b0000#4 ++ encFlag j ++ 0b01#2 ++ v : Word)]
  | .loadStep j v => [(0b11011#5 ++ encFlag j ++ 0b111#3 ++ v : Word)]
  | .loadPs v => [(0b01001101100000#14 ++ v : Word)]
  | .brk => [(0b1101001111000000#16 : Word)]
  | .retd => [(0b1101011110000000#16 : Word)]
  | .retid => [(0b1101011111000000#16 : Word)]
  | .nop => [(0b0000000000000000#16 : Word)]
  | .eint => [(0b0100001110000000#16 : Word)]
  | .dint => [(0b0100001111000000#16 : Word)]
  | .trap => [(0b0000000000100000#16 : Word)]

end Sys2Proof
end

