-- ==== Sys2Proof/Machine/Info.lean ====
section
/-! DEFINITION. What the order and interrupt rules ask of each instruction: words and cycles (spec/30_encoding.md
R159), kind, register operands. -/

namespace Sys2Proof.Machine

/-- The classes of instruction the rules of spec/46_control.md, spec/60_exceptions.md section 3 and
spec/70_reset_and_hazards.md section 3 name. -/
inductive Kind where
  | plain | br | brr | call | callr | calla | ret | reti | rets | retd | retid | rep | bkrep | brk | trap
  | icrWrite | icrRead | repcRead | mixpRead | maxMin | exp | push | pop | index | bitField | mov | movp | movs | movd
  deriving DecidableEq, Repr

/-- What the rules ask of an instruction. -/
structure InstrInfo where
  /-- 1 or 2 (R130). -/
  words : Nat
  /-- Cycles; for a conditional transfer, when it is not taken (R159, R561). -/
  cycles : Nat
  /-- Cycles of a conditional transfer that is taken. -/
  cyclesTaken : Nat
  kind : Kind
  /-- The register that is a source operand. -/
  src : Option Reg
  /-- The register that is a destination operand. -/
  dst : Option Reg
  /-- The condition of a conditional transfer. -/
  cond : Cond
  /-- mov ##long immediate, register. -/
  longImm : Bool
  deriving DecidableEq, Repr

/-- One word, one cycle, nothing special. -/
def infoPlain : InstrInfo := ⟨1, 1, 1, .plain, none, none, .always, false⟩

/-- Two words, two cycles, nothing special. -/
def infoTwo : InstrInfo := { infoPlain with words := 2, cycles := 2, cyclesTaken := 2 }

/-- The rules' view of each instruction. -/
def instrInfo : Instr → InstrInfo
  | .orDirect _ _ => infoPlain
  | .orInd _ _ _ => infoPlain
  | .orReg _ r => { infoPlain with src := some r }
  | .andDirect _ _ => infoPlain
  | .andInd _ _ _ => infoPlain
  | .andReg _ r => { infoPlain with src := some r }
  | .xorDirect _ _ => infoPlain
  | .xorInd _ _ _ => infoPlain
  | .xorReg _ r => { infoPlain with src := some r }
  | .addDirect _ _ => infoPlain
  | .addInd _ _ _ => infoPlain
  | .addReg _ r => { infoPlain with src := some r }
  | .tst0AccDirect _ _ => infoPlain
  | .tst0AccInd _ _ _ => infoPlain
  | .tst0AccReg _ r => { infoPlain with src := some r }
  | .tst1AccDirect _ _ => infoPlain
  | .tst1AccInd _ _ _ => infoPlain
  | .tst1AccReg _ r => { infoPlain with src := some r }
  | .cmpDirect _ _ => infoPlain
  | .cmpInd _ _ _ => infoPlain
  | .cmpReg _ r => { infoPlain with src := some r }
  | .subDirect _ _ => infoPlain
  | .subInd _ _ _ => infoPlain
  | .subReg _ r => { infoPlain with src := some r }
  | .msuDirect _ _ => infoPlain
  | .msuInd _ _ _ => infoPlain
  | .msuReg _ r => { infoPlain with src := some r }
  | .addhDirect _ _ => infoPlain
  | .addhInd _ _ _ => infoPlain
  | .addhReg _ r => { infoPlain with src := some r }
  | .addlDirect _ _ => infoPlain
  | .addlInd _ _ _ => infoPlain
  | .addlReg _ r => { infoPlain with src := some r }
  | .subhDirect _ _ => infoPlain
  | .subhInd _ _ _ => infoPlain
  | .subhReg _ r => { infoPlain with src := some r }
  | .sublDirect _ _ => infoPlain
  | .sublInd _ _ _ => infoPlain
  | .sublReg _ r => { infoPlain with src := some r }
  | .sqrDirect _ => infoPlain
  | .sqrInd _ _ => infoPlain
  | .sqrReg r => { infoPlain with src := some r }
  | .sqraDirect _ _ => infoPlain
  | .sqraInd _ _ _ => infoPlain
  | .sqraReg _ r => { infoPlain with src := some r }
  | .cmpuDirect _ _ => infoPlain
  | .cmpuInd _ _ _ => infoPlain
  | .cmpuReg _ r => { infoPlain with src := some r }
  | .orShort _ _ => infoPlain
  | .orLong _ _ => infoTwo
  | .orRbShort _ _ => { infoPlain with kind := .index }
  | .orRbLong _ _ => { infoTwo with kind := .index }
  | .orLongDirect _ _ => infoTwo
  | .andShort _ _ => infoPlain
  | .andLong _ _ => infoTwo
  | .andRbShort _ _ => { infoPlain with kind := .index }
  | .andRbLong _ _ => { infoTwo with kind := .index }
  | .andLongDirect _ _ => infoTwo
  | .xorShort _ _ => infoPlain
  | .xorLong _ _ => infoTwo
  | .xorRbShort _ _ => { infoPlain with kind := .index }
  | .xorRbLong _ _ => { infoTwo with kind := .index }
  | .xorLongDirect _ _ => infoTwo
  | .addShort _ _ => infoPlain
  | .addLong _ _ => infoTwo
  | .addRbShort _ _ => { infoPlain with kind := .index }
  | .addRbLong _ _ => { infoTwo with kind := .index }
  | .addLongDirect _ _ => infoTwo
  | .cmpShort _ _ => infoPlain
  | .cmpLong _ _ => infoTwo
  | .cmpRbShort _ _ => { infoPlain with kind := .index }
  | .cmpRbLong _ _ => { infoTwo with kind := .index }
  | .cmpLongDirect _ _ => infoTwo
  | .subShort _ _ => infoPlain
  | .subLong _ _ => infoTwo
  | .subRbShort _ _ => { infoPlain with kind := .index }
  | .subRbLong _ _ => { infoTwo with kind := .index }
  | .subLongDirect _ _ => infoTwo
  | .shrA _ _ => infoPlain
  | .shr4A _ _ => infoPlain
  | .shlA _ _ => infoPlain
  | .shl4A _ _ => infoPlain
  | .rorA _ _ => infoPlain
  | .rolA _ _ => infoPlain
  | .clrA _ _ => infoPlain
  | .notA _ _ => infoPlain
  | .negA _ _ => infoPlain
  | .rndA _ _ => infoPlain
  | .pacrA _ _ => infoPlain
  | .clrrA _ _ => infoPlain
  | .incA _ _ => infoPlain
  | .decA _ _ => infoPlain
  | .copyA _ _ => infoPlain
  | .shrB _ _ => infoPlain
  | .shr4B _ _ => infoPlain
  | .shlB _ _ => infoPlain
  | .shl4B _ _ => infoPlain
  | .rorB _ _ => infoPlain
  | .rolB _ _ => infoPlain
  | .clrB _ _ => infoPlain
  | .norm _ _ _ => { infoPlain with cycles := 2, cyclesTaken := 2 }
  | .divs _ _ => infoPlain
  | .setInd _ _ _ => { infoTwo with kind := .bitField }
  | .setReg _ r => { infoTwo with kind := .bitField, src := some r, dst := some r }
  | .setDirect _ _ => { infoTwo with kind := .bitField }
  | .rstInd _ _ _ => { infoTwo with kind := .bitField }
  | .rstReg _ r => { infoTwo with kind := .bitField, src := some r, dst := some r }
  | .rstDirect _ _ => { infoTwo with kind := .bitField }
  | .chngInd _ _ _ => { infoTwo with kind := .bitField }
  | .chngReg _ r => { infoTwo with kind := .bitField, src := some r, dst := some r }
  | .chngDirect _ _ => { infoTwo with kind := .bitField }
  | .addvInd _ _ _ => { infoTwo with kind := .bitField }
  | .addvReg _ r => { infoTwo with kind := .bitField, src := some r, dst := some r }
  | .addvDirect _ _ => { infoTwo with kind := .bitField }
  | .tst0LongInd _ _ _ => infoTwo
  | .tst0LongReg _ r => { infoTwo with src := some r }
  | .tst0LongDirect _ _ => infoTwo
  | .tst1LongInd _ _ _ => infoTwo
  | .tst1LongReg _ r => { infoTwo with src := some r }
  | .tst1LongDirect _ _ => infoTwo
  | .cmpvInd _ _ _ => infoTwo
  | .cmpvReg _ r => { infoTwo with src := some r }
  | .cmpvDirect _ _ => infoTwo
  | .subvInd _ _ _ => { infoTwo with kind := .bitField }
  | .subvReg _ r => { infoTwo with kind := .bitField, src := some r, dst := some r }
  | .subvDirect _ _ => { infoTwo with kind := .bitField }
  | .maxd _ _ _ => { infoPlain with kind := .maxMin }
  | .max _ _ _ => { infoPlain with kind := .maxMin }
  | .min _ _ _ => { infoPlain with kind := .maxMin }
  | .lim _ _ => infoPlain
  | .mpyInd _ _ => infoPlain
  | .mpyReg r => { infoPlain with src := some r }
  | .mpyDual _ _ _ _ => infoPlain
  | .mpyLong _ _ _ => infoTwo
  | .mpysuInd _ _ => infoPlain
  | .mpysuReg r => { infoPlain with src := some r }
  | .mpysuDual _ _ _ _ => infoPlain
  | .mpysuLong _ _ _ => infoTwo
  | .macInd _ _ _ => infoPlain
  | .macReg _ r => { infoPlain with src := some r }
  | .macDual _ _ _ _ _ => infoPlain
  | .macLong _ _ _ _ => infoTwo
  | .macusInd _ _ _ => infoPlain
  | .macusReg _ r => { infoPlain with src := some r }
  | .macusDual _ _ _ _ _ => infoPlain
  | .macusLong _ _ _ _ => infoTwo
  | .maaInd _ _ _ => infoPlain
  | .maaReg _ r => { infoPlain with src := some r }
  | .maaDual _ _ _ _ _ => infoPlain
  | .maaLong _ _ _ _ => infoTwo
  | .macuuInd _ _ _ => infoPlain
  | .macuuReg _ r => { infoPlain with src := some r }
  | .macuuDual _ _ _ _ _ => infoPlain
  | .macuuLong _ _ _ _ => infoTwo
  | .macsuInd _ _ _ => infoPlain
  | .macsuReg _ r => { infoPlain with src := some r }
  | .macsuDual _ _ _ _ _ => infoPlain
  | .macsuLong _ _ _ _ => infoTwo
  | .maasuInd _ _ _ => infoPlain
  | .maasuReg _ r => { infoPlain with src := some r }
  | .maasuDual _ _ _ _ _ => infoPlain
  | .maasuLong _ _ _ _ => infoTwo
  | .mpyDirect _ => infoPlain
  | .macDirect _ _ => infoPlain
  | .maaDirect _ _ => infoPlain
  | .macsuDirect _ _ => infoPlain
  | .mpyi _ => infoPlain
  | .msuLong _ _ _ _ => infoTwo
  | .msuDual _ _ _ _ _ => infoPlain
  | .tstbInd _ _ _ => infoPlain
  | .tstbReg r _ => { infoPlain with src := some r }
  | .tstbDirect _ _ => infoPlain
  | .shfc _ _ _ => infoPlain
  | .shfi _ _ _ => infoPlain
  | .expInd _ _ _ => { infoPlain with kind := .exp }
  | .expReg r _ => { infoPlain with kind := .exp, src := some r }
  | .expAcc _ _ => { infoPlain with kind := .exp }
  | .movRegReg src dst => { infoPlain with kind := .mov, src := some src, dst := some dst }
  | .movAccAcc _ _ => { infoPlain with kind := .mov }
  | .movAccDvm _ => { infoPlain with kind := .mov }
  | .movAccX _ => { infoPlain with kind := .mov }
  | .movRegB r _ => { infoPlain with kind := .mov, src := some r }
  | .movRegMixp r => { infoPlain with kind := .mov, src := some r }
  | .movRegInd r _ _ => { infoPlain with kind := .mov, src := some r }
  | .movMixpReg r => { infoPlain with kind := .mixpRead, dst := some r }
  | .movSpecAcc src _ => { infoPlain with kind := if src == .repc then .repcRead else .mov }
  | .movIcrAcc _ => { infoPlain with kind := .icrRead }
  | .movIndReg _ _ r => { infoPlain with kind := .mov, dst := some r }
  | .movIndB _ _ _ => { infoPlain with kind := .mov }
  | .movSpReg r => { infoPlain with kind := .mov, dst := some r }
  | .movRnDirect n _ => { infoPlain with kind := .mov, src := some (regOfStar n) }
  | .movHalfDirect _ _ _ => { infoPlain with kind := .mov }
  | .movDirectRn _ n => { infoPlain with kind := .mov, dst := some (regOfStar n) }
  | .movDirectAcc _ _ => { infoPlain with kind := .mov }
  | .movDirectHalf _ _ _ => { infoPlain with kind := .mov }
  | .movDirectHighEu _ _ => { infoPlain with kind := .mov }
  | .movDirectSv _ => { infoPlain with kind := .mov, dst := some .sv }
  | .movSvDirect _ => { infoPlain with kind := .mov, src := some .sv }
  | .movLongDirectA _ _ => { infoTwo with kind := .mov }
  | .movALongDirect _ _ => { infoTwo with kind := .mov }
  | .movLongReg _ r => { infoTwo with kind := .mov, dst := some r, longImm := true }
  | .movLongB _ _ => { infoTwo with kind := .mov }
  | .movShortHalf _ _ _ => { infoPlain with kind := .mov }
  | .movShortRn _ n => { infoPlain with kind := .mov, dst := some (regOfStar n) }
  | .movShortExt _ _ => { infoPlain with kind := .mov }
  | .movShortSv _ => { infoPlain with kind := .mov, dst := some .sv }
  | .movRegIcr r => { infoPlain with kind := .icrWrite, src := some r }
  | .movShortIcr _ => { infoPlain with kind := .icrWrite }
  | .movRbShortA _ _ => { infoPlain with kind := .index }
  | .movARbShort _ _ => { infoPlain with kind := .index }
  | .movRbLongA _ _ => { infoTwo with kind := .index }
  | .movARbLong _ _ => { infoTwo with kind := .index }
  | .movpAccReg _ r => { infoPlain with cycles := 3, cyclesTaken := 3, kind := .movp, dst := some r }
  | .movpIndInd _ _ _ _ => { infoPlain with cycles := 3, cyclesTaken := 3, kind := .movp }
  | .movsReg r _ => { infoPlain with kind := .movs, src := some r }
  | .movsInd _ _ _ => { infoPlain with kind := .movs }
  | .movsDirect _ _ => { infoPlain with kind := .movs }
  | .movsi n _ _ => { infoPlain with src := some (regOfStar n) }
  | .movrReg r _ => { infoPlain with src := some r }
  | .movrInd _ _ _ => infoPlain
  | .pushReg r => { infoPlain with kind := .push, src := some r }
  | .pushLong _ => { infoTwo with kind := .push }
  | .pop r => { infoPlain with kind := .pop, dst := some r }
  | .swap _ => infoPlain
  | .banke _ => infoPlain
  | .movd _ _ _ _ => { infoPlain with cycles := 4, cyclesTaken := 4, kind := .movd }
  | .repReg r => { infoPlain with kind := .rep, src := some r }
  | .repShort _ => { infoPlain with kind := .rep }
  | .bkrepShort _ _ => { infoTwo with kind := .bkrep }
  | .bkrepReg r _ => { infoTwo with kind := .bkrep, src := some r }
  | .br _ cc => { infoTwo with cyclesTaken := 3, kind := .br, cond := cc }
  | .brr _ cc => { infoPlain with cycles := 2, cyclesTaken := 2, kind := .brr, cond := cc }
  | .call _ cc => { infoTwo with cyclesTaken := 3, kind := .call, cond := cc }
  | .callr _ cc => { infoPlain with cycles := 2, cyclesTaken := 2, kind := .callr, cond := cc }
  | .calla _ => { infoPlain with cycles := 3, cyclesTaken := 3, kind := .calla }
  | .ret cc => { infoPlain with cycles := 2, cyclesTaken := 3, kind := .ret, cond := cc }
  | .reti cc _ => { infoPlain with cycles := 2, cyclesTaken := 3, kind := .reti, cond := cc }
  | .cntx _ => infoPlain
  | .rets _ => { infoPlain with cycles := 3, cyclesTaken := 3, kind := .rets }
  | .modr _ _ _ => infoPlain
  | .loadPage _ => infoPlain
  | .loadMod _ _ => infoPlain
  | .loadStep _ _ => infoPlain
  | .loadPs _ => infoPlain
  | .brk => { infoPlain with kind := .brk }
  | .retd => { infoPlain with kind := .retd }
  | .retid => { infoPlain with kind := .retid }
  | .nop => infoPlain
  | .eint => infoPlain
  | .dint => infoPlain
  | .trap => { infoPlain with cycles := 2, cyclesTaken := 2, kind := .trap }

end Sys2Proof.Machine
end

