-- ==== Sys2Proof/Machine/Hazards.lean ====
section
/-! DEFINITION. The order restrictions software must keep, as the step checks them before an instruction runs
(spec/20_memory.md R107, spec/46_control.md R414, R421, R425, spec/70_reset_and_hazards.md section 3; U9, U14). -/

namespace Sys2Proof.Machine

/-- The transfer is taken: always for the unconditional ones, by the condition for the others. A write of pc and the
delayed returns are not counted here. -/
def isTaken (f : InstrInfo) (s : State) : Bool :=
  match f.kind with
  | .br | .brr | .call | .callr | .ret | .reti => condHolds f.cond s
  | .calla | .rets => true
  | _ => false

/-- The cycles an instruction takes from a state (R159). -/
def cyclesOf (f : InstrInfo) (s : State) : Nat := if isTaken f s then f.cyclesTaken else f.cycles

/-- The program word at `a` is a nop. -/
def isNopAt (a : Word) (s : State) : Bool := progMapped a && memWord s.prog a == 0

/-- The marks an instruction leaves for the one right after it (R565, R567 to R570). -/
def leaveMarks (f : InstrInfo) (t : Timing) : Timing :=
  { t with
    hazRb := f.dst == some .rb && !f.longImm
    hazSp := f.dst == some .sp
    hazExp := f.kind == .exp
    hazMixp := f.kind == .maxMin
    hazIcr := f.kind == .icrWrite }

/-- R565, R567 to R570: the instruction may not follow the one that left the marks of `t`. DESIGN CHOICE, log 44,
unsafe: of the instructions that push only push itself is refused after a write of sp (R569); call, callr, calla and
trap run there, and push at the new sp. -/
def adjacentRule (f : InstrInfo) (t : Timing) : Option SeqRule :=
  if t.hazRb && f.kind == .index then some .rbThenIndex
  else if t.hazMixp && f.kind == .mixpRead then some .mixpAfterMax
  else if t.hazExp && (f.src == some .sv || f.dst == some .sv) && f.kind != .movs then some .svAfterExp
  else if t.hazSp && f.kind == .push then some .pushAfterSp
  else if t.hazIcr && f.kind == .bkrep then some .bkrepAfterIcr
  else none

/-- R566: an instruction at `a` that writes pc is followed by two nops, by one when it is mov ##long, pc. -/
def pcWriteRule (f : InstrInfo) (a : Word) (s : State) : Option SeqRule :=
  if f.dst == some .pc then
    let b := a + BitVec.ofNat 16 f.words
    if isNopAt b s && (f.longImm || isNopAt (b + 1) s) then none else some .pcWithoutNops
  else none

/-- R421: what may not be the instruction a repeat repeats. -/
def repeatRule (f : InstrInfo) (a : Word) (s : State) : Option SeqRule :=
  if s.ctl.repActive && a == s.ctl.repAddr then
    if f.words == 2 || f.dst == some .pc ||
        [Kind.brr, .callr, .trap, .ret, .reti, .retd, .retid, .rets, .rep, .calla, .repcRead].contains f.kind then
      some .notRepeatable
    else none
  else none

/-- R425 items 1 to 4 and 7: the instruction may not stand at address `a` of the body from `first` to `last`. -/
def misplaced (f : InstrInfo) (a first last : Word) : Bool :=
  (a == first && [Kind.brk, .icrWrite, .icrRead].contains f.kind) ||
    ((a == last || a == last - 1) &&
      ([Kind.br, .brr, .call, .callr, .calla, .ret, .reti, .rets, .retd, .retid, .bkrep, .rep, .icrRead].contains
        f.kind || f.dst == some .pc || f.dst == some .lc || f.src == some .lc)) ||
    (a == first + 1 && f.dst == some .lc) || (a == first + 2 && f.dst == some .lc && f.kind == .bitField) ||
    (a == last && f.kind == .brk)

/-- The instruction that the words at `a` are, if they are one. -/
def instrAt (m : Mem) (a : Word) : Option Instr := (decode (memWord m a) (memWord m (a + 1))).toOption

/-- The last instruction of the `n` words from `a`, the words read in sequence; none when one of them is no instruction
or the last one is cut. -/
def lastInstr (m : Mem) : Nat → Word → Option Instr
  | 0, _ => none
  | n + 1, a =>
    match instrAt m a with
    | none => none
    | some i =>
      if (instrInfo i).words = 2 then
        match n with
        | 0 => none
        | k + 1 => if k = 0 then some i else lastInstr m k (a + 2)
      else if n = 0 then some i else lastInstr m n (a + 1)

/-- The instruction of `g` may not stand right after that of `f`. -/
def illegalPair (f g : InstrInfo) : Bool := (adjacentRule g (leaveMarks f Timing.reset)).isSome

/-- R425 item 5: the last and the first instruction of the running body may not follow one another. It is judged when
the first one runs, against the last instruction in program memory, and when the last one runs, against the first.
DESIGN CHOICE, log 46, safe: the words of the body are read in sequence from its first address to find its last instruction. -/
def bodyPair (f : InstrInfo) (a : Word) (s : State) : Bool :=
  (a == s.ctl.bkStart && (lastInstr s.prog ((s.ctl.bkEnd - a).toNat + 1) a).any fun l => illegalPair (instrInfo l) f) ||
    (a + BitVec.ofNat 16 f.words - 1 == s.ctl.bkEnd &&
      (instrAt s.prog s.ctl.bkStart).any fun j => illegalPair f (instrInfo j))

/-- R425: the instruction may not stand at address `a` of one of the running block repeats, the enclosing ones among
them, forms an illegal pair over the ends of the running one, or is a nested bkrep of lc (R422). -/
def blockRule (f : InstrInfo) (a : Word) (s : State) : Option SeqRule :=
  if s.ctl.lp && (misplaced f a s.ctl.bkStart s.ctl.bkEnd || (s.ctl.bkSaved.any fun l => misplaced f a l.first l.last) ||
      bodyPair f a s || (f.kind == .bkrep && f.src == some .lc)) then some .blockPlacement
  else none

/-- R414: after retd or retid, no instruction of the list, and one that fits the cycles left. -/
def delayRule (f : InstrInfo) (s : State) : Option SeqRule :=
  if s.ctl.delayCount = 0 then none
  else if f.dst == some .pc || [Kind.brr, .callr, .rep, .trap, .retd, .retid].contains f.kind || isTaken f s ||
      decide (s.ctl.delayCount < cyclesOf f s) then some .delaySlot
  else none

/-- R107: the words `a` to `a + words - 1` are the target of a recent movd. -/
def nearMovd (f : InstrInfo) (a : Word) (s : State) : Bool :=
  s.tm.movdRecent.any fun t => t.1 == a || (f.words == 2 && t.1 == a + 1)

/-- The restriction the instruction at `a` breaks, if any, in the order of the rules. -/
def orderRefusal (f : InstrInfo) (a : Word) (s : State) : Option Refusal :=
  if nearMovd f a s then some .movdNearPc
  else
    match (adjacentRule f s.tm).orElse fun _ => (pcWriteRule f a s).orElse fun _ => (repeatRule f a s).orElse fun _ =>
        (blockRule f a s).orElse fun _ => delayRule f s with
    | some r => some (.sequence r)
    | none => none

end Sys2Proof.Machine
end

