-- ==== Sys2Proof/Machine/Sequence.lean ====
section
/-! DEFINITION. What surrounds the meaning of an instruction in a step: interrupt acceptance
(spec/60_exceptions.md section 3 and 4), the fetch, and the sequencing after the instruction
(spec/46_control.md R400). -/

namespace Sys2Proof.Machine

/-! ## Interrupt acceptance -/

/-- The core can take an interrupt at this boundary (R462): not in the TRAP/BI routine, no delayed return pending,
no repeat nested in a suspended one. -/
def interruptible (s : State) : Bool :=
  !s.ctl.inTrap && s.ctl.delayCount == 0 && !(s.ctl.repSuspended && s.ctl.repActive)

/-- BI is requested and can be taken (R468). -/
def biAccepted (s : State) : Bool := s.ocem.biReq && interruptible s && s.tm.delayBi == 0

/-- The maskable interrupt taken at this boundary (R460, R462, R464, R465). -/
def intAccepted (s : State) : Option Event :=
  if interruptible s && s.md.ie && decide (3 ≤ s.tm.fetches) then
    if int0Line s && s.md.im0 && s.tm.delay01 == 0 then some .int0
    else if int1Line s && s.md.im1 && s.tm.delay01 == 0 then some .int1
    else if int2Line s && s.md.im2 && s.tm.delay2 == 0 then some .int2
    else none
  else none

/-- IC2, IC1, IC0 as they stand (R65). -/
def icBits (s : State) : BitVec 3 := BitVec.ofBool s.md.ic2 ++ BitVec.ofBool s.md.ic1 ++ BitVec.ofBool s.md.ic0

/-- BI is taken (R468): the request ends, and so does a single step that has not run yet, which the next return decides
anew (R512). -/
def takeBi (s : State) : Res State :=
  takeException .trapBi { s with
    ocem := { s.ocem with biReq := false }
    ctl := { s.ctl with trapRet := false, stepArmed := false } }

/-- A maskable interrupt is taken (R461); the OCEM records the jump and breaks if INTE is set (R507, R513, R514). -/
def takeInterrupt (e : Event) (s : State) : Res State :=
  andThen (takeException e s) fun t =>
    let u := traceTwo s.tm.lastAddr (vectorOf e) { t with tm := { t.tm with icPrev := icBits t } }
    .next (if ocemArmed 11 u then ocemBreak 12 u else u)

/-! ## Fetch -/

/-- One program address breakpoint on a fetch (R508): the guarded decrement, and whether it breaks. -/
def pabHit (enabled : Bool) (a pabp : Word) (pabc : BitVec 6) : BitVec 6 × Bool :=
  if enabled && a == pabp then
    let c := if pabc == 0 then 0 else pabc - 1
    (c, c == 0)
  else (pabc, false)

/-- The OCEM on the fetch of the instruction at `a` (R508). -/
def ocemFetch (a : Word) (s : State) : State :=
  let h1 := pabHit (ocemArmed 7 s) a s.ocem.pabp1 s.ocem.pabc1
  let h2 := pabHit (ocemArmed 8 s) a s.ocem.pabp2 s.ocem.pabc2
  let h3 := pabHit (ocemArmed 9 s) a s.ocem.pabp3 s.ocem.pabc3
  let t : State := { s with ocem := { s.ocem with pabc1 := h1.1, pabc2 := h2.1, pabc3 := h3.1 } }
  let t := if h1.2 then ocemBreak 5 t else t
  let t := if h2.2 then ocemBreak 6 t else t
  if h3.2 then ocemBreak 7 t else t

/-- The instruction at `a`: its first word, and its second word when it is a two-word instruction (R130, R400). -/
def fetchInstr (a : Word) (s : State) : Res (Instr × State) :=
  andThen (progRead a s) fun q =>
    match decode q.1 0 with
    | .error e => .refused (.reserved e)
    | .ok i =>
      if (instrInfo i).words = 2 then
        andThen (progRead (a + 1) q.2) fun q2 =>
          match decode q.1 q2.1 with
          | .error e => .refused (.reserved e)
          | .ok j => .next (j, q2.2)
      else .next (i, q.2)

/-! ## After the instruction -/

/-- The longer of two delays, for INT0 and INT1, for INT2, and for BI. -/
def maxDelays (d e : Nat × Nat × Nat) : Nat × Nat × Nat := (max d.1 e.1, max d.2.1 e.2.1, max d.2.2 e.2.2)

/-- Table 14 (R464): the cycles for which INT0 and INT1, INT2, and BI are held off after an instruction that ran at
`a` in state `b`: of the rows that apply, the longest. After the last repetition BI is held off too (R420, R462). -/
def interruptDelays (f : InstrInfo) (a : Word) (b : State) : Nat × Nat × Nat :=
  let moves := [Kind.mov, .mixpRead, .movp, .bitField].contains f.kind
  let repeated := b.ctl.repActive && a == b.ctl.repAddr
  let rows : List (Bool × Nat × Nat × Nat) :=
    [([Kind.br, .call, .ret, .reti].contains f.kind && !isTaken f b, 1, 1, 0),
      (f.dst == some .sp && moves && !f.longImm, 1, 1, 0),
      (repeated && b.regs.repc == 0, 1, 1, 1),
      (repeated && b.ctl.repResumed, 1, 1, 0),
      (b.ctl.trapRet, 1, 1, 0),
      (f.dst == some .st0 && (moves || f.kind == .pop), if f.longImm then (1, 1, 0) else (2, 2, 0)),
      (f.dst == some .st2 && (moves || f.kind == .pop), if f.longImm then (0, 1, 0) else (1, 2, 0)),
      ([Kind.retd, .retid, .rep].contains f.kind, 2, 2, 2),
      (f.dst == some .pc && [Kind.mov, .mixpRead, .movp].contains f.kind, if f.longImm then (1, 1, 1) else (2, 2, 2))]
  rows.foldl (fun d r => if r.1 then maxDelays d r.2 else d) (0, 0, 0)

/-- The OCEM on a jump of the instruction that ran at `a` in state `b` (R513, R514): the jump is recorded, in one
entry when the target is coded in the program, and BRE breaks. DESIGN CHOICE, log 47, unsafe: mov ##long immediate, pc,
whose target is coded in the program, is recorded in two entries as every move to pc is (R514, principle 3). -/
def ocemJump (f : InstrInfo) (a : Word) (b s : State) : State :=
  if !b.ctl.inTrap && (isTaken f b || f.dst == some .pc) then
    let t := if [Kind.br, .brr, .call, .callr].contains f.kind then traceOne a s else traceTwo a s.pc s
    if t.ocem.mode0.getLsbD 10 then ocemBreak 11 t else t
  else s

/-- Sequencing (a): the single repeat (R400, R420). The flag says that the instruction is to run again. -/
def afterRepeat (a : Word) (b s : State) : State × Bool :=
  if b.ctl.repActive && a == b.ctl.repAddr then
    let t : State := { s with ctl := { s.ctl with repResumed := false } }
    if s.regs.repc == 0 then ({ t with ctl := { t.ctl with repActive := false } }, false)
    else ({ t with regs := { t.regs with repc := s.regs.repc - 1 }, pc := a }, true)
  else (s, false)

/-- Sequencing (b): the end of a block-repeat pass (R400, R423), for an instruction whose last word is at
`next - 1`; a clear of LP that waits for this level acts after the test (R426). -/
def afterBlock (next : Word) (s : State) : State :=
  if s.ctl.lp && next - 1 == s.ctl.bkEnd && s.pc == next then
    if s.regs.lc == 0 then endBlock s
    else
      let t : State := { s with regs := { s.regs with lc := s.regs.lc - 1 }, pc := s.ctl.bkStart }
      applyLpClear s.ctl.bc (if ocemArmed 13 t then ocemBreak 11 t else t)
  else s

/-- Sequencing (c): the cycles of a delayed return are used up, and pc is loaded when none is left (R400, R414).
`b` is the state before the instruction. -/
def afterDelay (cycles : Nat) (b s : State) : State :=
  if b.ctl.delayCount = 0 then s
  else if cycles < b.ctl.delayCount then { s with ctl := { s.ctl with delayCount := b.ctl.delayCount - cycles } }
  else
    let t := returnTo s.ctl.delayTarget { s with ctl := { s.ctl with
      delayCount := 0
      delayFrom := none
      trapRet := s.ctl.trapRet || s.ctl.trapRetLater
      trapRetLater := false } }
    match s.ctl.delayFrom with
    | none => t
    | some src =>
      let u := traceTwo src s.ctl.delayTarget t
      if u.ocem.mode0.getLsbD 10 then ocemBreak 11 u else u

/-- A recent movd counts down, and a new one is added (R107). DESIGN CHOICE, log 30, safe: the nops after a write of pc,
which are no steps of the model (R566), do not count among the three instructions after a movd. -/
def afterMovd (i : Instr) (b : State) (recent : List (Word × Nat)) : List (Word × Nat) :=
  let old := recent.filterMap fun t => if t.2 ≤ 1 then none else some (t.1, t.2 - 1)
  match i with
  | .movd _ _ j _ => (getRN (rnOfJ j) b, 3) :: old
  | _ => old

/-- What the instruction leaves for the rules on later ones. -/
def afterTiming (i : Instr) (a : Word) (b s : State) : Timing :=
  let f := instrInfo i
  let d := interruptDelays f a b
  let n := cyclesOf f b
  leaveMarks f { b.tm with
    icPrev := if f.kind == .icrWrite then icBits b else icBits s
    fetches := min 3 (b.tm.fetches + 1)
    delay01 := max (b.tm.delay01 - n) d.1
    delay2 := max (b.tm.delay2 - n) d.2.1
    delayBi := max (b.tm.delayBi - n) d.2.2
    movdRecent := afterMovd i b b.tm.movdRecent
    lastAddr := a }

/-- The latency of a data breakpoint that was running before the instruction runs down (R511); `b` is the state before
the instruction. -/
def afterData (b s : State) : State :=
  match b.ocem.biData with
  | 0 => s
  | 1 => { s with ocem := { s.ocem with biData := 0, biReq := true } }
  | n + 2 => { s with ocem := { s.ocem with biData := n + 1 } }

/-- The first instruction after a TRAP/BI return has run: a single step breaks again (R512). DESIGN CHOICE, log 41,
unsafe: when that instruction is trap, the request waits through the trap routine, and BI is taken at its return,
before another instruction runs. -/
def afterTrapRet (b s : State) : State :=
  if b.ctl.trapRet then
    { s with
      ctl := { s.ctl with trapRet := false, stepArmed := false }
      ocem := { s.ocem with biReq := s.ocem.biReq || b.ctl.stepArmed } }
  else s

/-- Everything after the meaning: `b` is the state before the instruction `i`, which ran at `a`, and `s` the state
its meaning gave (R400). -/
def afterInstr (i : Instr) (a : Word) (b s : State) : State :=
  let f := instrInfo i
  let r := afterRepeat a b (ocemJump f a b s)
  let t := if r.2 then r.1 else afterBlock (a + BitVec.ofNat 16 f.words) r.1
  let u := afterTrapRet b (afterData b (afterDelay (cyclesOf f b) b t))
  { u with tm := afterTiming i a b u }

end Sys2Proof.Machine
end

