-- ==== Sys2Proof/Machine/Step.lean ====
section
/-! DEFINITION. One step of the machine (spec/46_control.md R400): the other agents act; then an interrupt is taken,
or one instruction is fetched, checked against the order rules, and run. -/

namespace Sys2Proof.Machine

/-- Runs the instruction `i` that stands at the program counter: pc is moved past its words, `exec` runs it, the
sequencing follows. An instruction that breaks an order rule is refused. -/
def runInstr (i : Instr) (s : State) : Res State :=
  match orderRefusal (instrInfo i) s.pc s with
  | some r => .refused r
  | none =>
    andThen (exec i { s with pc := s.pc + BitVec.ofNat 16 (instrInfo i).words }) fun t =>
      .next (afterInstr i s.pc s t)

/-- Fetches and runs the instruction at the program counter. A program breakpoint on it is taken before it runs
(R508). -/
def fetchRun (s : State) : Res State :=
  let t := ocemFetch s.pc s
  if biAccepted t then takeBi t
  else andThen (fetchInstr t.pc t) fun q => runInstr q.1 q.2

/-- The core's part of a step: BI, else a maskable interrupt, else an instruction (R400, R465). -/
def coreStep (s : State) : Res State :=
  if biAccepted s then takeBi s
  else
    match intAccepted s with
    | some e => takeInterrupt e s
    | none => fetchRun s

/-- One step of the machine. -/
def step (s : State) : Host.Outcome State Fault Refusal := andThen (agentStep s) coreStep

/-- `s` with the instruction `w` stored at the program counter and the address after it, the words in the order
spec/opcode_table.json numbers them; program addresses from 0x6000 up do not exist and are left. -/
def State.withFetchWord (s : State) (_nbits w : Nat) : State :=
  { s with prog := uploadImage [(s.pc, BitVec.ofNat 16 w), (s.pc + 1, BitVec.ofNat 16 (w / 65536))] s.prog }

end Sys2Proof.Machine
end

