-- ==== Sys2Proof/WellFormed.lean ====
section
/-! DEFINITION. Well-formed instructions: every term of `Instr` has an encoding; a term is well formed when its
operands break no restriction of its instruction page (U6, U8). -/

namespace Sys2Proof

/-- No operand restriction is broken. -/
def Instr.wf (i : Instr) : Bool := (Machine.operandRule i).isNone

end Sys2Proof
end

