-- ==== Sys2Proof/Safety.lean ====
section
/-! DEFINITION. What a safe state is, and the terms the statements are written in: integer readings of the flags,
what an instruction changes and keeps, how its memory operand is read. -/

namespace Sys2Proof.Machine

/-! ## The invariant of the machine -/

/-- A byte of the data list stands at an address that stores: RAM, or one of the 256 mailbox words (R83, R520). -/
def storesData (key : Nat) : Prop :=
  key < 0x20000 ∧
    (dataRegion (BitVec.ofNat 16 (key / 2)) = .ram ∨ (0xE000 ≤ key / 2 ∧ key / 2 < 0xE100))

/-- What every step keeps, whatever the program: both memories are in canonical form and list only words that exist;
icr.BC counts the saved block-repeat levels and icr.LP says that there is one (R63, R64, R424); a delayed return waits
at most two cycles (R414); a clear of LP waits for a level that runs (R426); the trace buffer has sixteen stages
(R514); the reserved bits of STATUS0 and CODCNT read as zero (R504, R532); the codec FIFOs are no longer than their
depth (R541). -/
structure State.Inv (s : State) : Prop where
  progCanonical : Memory.wf s.prog = true
  progRange : ∀ c ∈ s.prog, c.1 < 0xC000
  dataCanonical : Memory.wf s.data = true
  dataRange : ∀ c ∈ s.data, storesData c.1
  levels : s.ctl.bc.toNat ≤ 4
  inLoop : s.ctl.lp = decide (s.ctl.bc ≠ 0)
  savedLevels : s.ctl.bkSaved.length = s.ctl.bc.toNat - 1
  delay : s.ctl.delayCount ≤ 2
  pendingClear : ∀ n, s.ctl.lpClear = some n → 0 < n.toNat ∧ n.toNat ≤ s.ctl.bc.toNat
  stages : s.ocem.trace.length = 16
  status0 : s.ocem.status0 &&& 0x0700#16 = 0
  codecCnt : s.codec.cnt &&& 0xC000#16 = 0
  txDepth : s.codec.txFifo.length ≤ Config.codecFifoDepth
  rxDepth : s.codec.rxFifo.length ≤ Config.codecFifoDepth
  fetches : s.tm.fetches ≤ 3

/-! ## Outcomes -/

/-- `r` answers a next value, and `P` holds of it. -/
def Gives {α φ ρ : Type} (r : Host.Outcome α φ ρ) (P : α → Prop) : Prop := ∃ u, r = .next u ∧ P u

/-- The data read at `a` in `s` answers the word `v` and the state `t` (what a device does on a read is in `t`). -/
def Reads (a : Word) (s : State) (v : Word) (t : State) : Prop := dataRead a s = .next (v, t)

/-! ## Registers by name, and what is kept -/

/-- The registers outside the system state. -/
inductive Place where
  | acc (a : Acc)
  | rn (n : RN)
  | x | y | p | sv | rb | sp | cfgi | cfgj | mixp | r0b | r1b | r4b | cfgib | dvm | lc | repc
  deriving DecidableEq, Repr

/-- What a register holds, as a number; p together with its unsigned mark. -/
def Place.value (q : Place) (s : State) : Nat :=
  match q with
  | .acc a => (getAcc a s).toNat
  | .rn n => (getRN n s).toNat
  | .x => s.regs.x.toNat
  | .y => s.regs.y.toNat
  | .p => (BitVec.ofBool s.regs.pUnsigned ++ s.regs.p).toNat
  | .sv => s.regs.sv.toNat
  | .rb => s.regs.rb.toNat
  | .sp => s.regs.sp.toNat
  | .cfgi => s.regs.cfgi.toNat
  | .cfgj => s.regs.cfgj.toNat
  | .mixp => s.regs.mixp.toNat
  | .r0b => s.regs.r0b.toNat
  | .r1b => s.regs.r1b.toNat
  | .r4b => s.regs.r4b.toNat
  | .cfgib => s.regs.cfgib.toNat
  | .dvm => s.regs.dvm.toNat
  | .lc => s.regs.lc.toNat
  | .repc => s.regs.repc.toNat

/-- Every byte of data memory and of program memory reads in `u` as in `s`. -/
def SameMemory (s u : State) : Prop :=
  (∀ k, memByte u.data k = memByte s.data k) ∧ ∀ k, memByte u.prog k = memByte s.prog k

/-- The mode and configuration fields of st0, st1, st2 and icr, the context-switching storage, the loop, return and
trap state, the mailbox registers, the pins, the timing state, the schedule and the ARM's record are in `u` as in
`s`. -/
def SameSystem (s u : State) : Prop :=
  u.md = s.md ∧ u.shadow = s.shadow ∧ u.ctl = s.ctl ∧ u.dpmb = s.dpmb ∧ u.iuser0 = s.iuser0 ∧
    u.iuser1 = s.iuser1 ∧ u.tm = s.tm ∧ u.inputs = s.inputs ∧ u.armLog = s.armLog

/-- The same but for the mailbox registers, which a store may reach. -/
def SameCore (s u : State) : Prop :=
  u.md = s.md ∧ u.shadow = s.shadow ∧ u.ctl = s.ctl ∧ u.iuser0 = s.iuser0 ∧ u.iuser1 = s.iuser1 ∧ u.tm = s.tm ∧
    u.inputs = s.inputs ∧ u.armLog = s.armLog

/-- The codec, the emulation module, the log of the external ports and the count of free values are in `u` as in
`s`. -/
def SameDevices (s u : State) : Prop :=
  u.codec = s.codec ∧ u.ocem = s.ocem ∧ u.extLog = s.extLog ∧ u.freeCount = s.freeCount

/-- Every register but those of the list is in `u` as in `s`. -/
def SameRegsBut (changed : List Place) (s u : State) : Prop := ∀ q, q ∉ changed → q.value u = q.value s

/-- From `s` to `u` no register outside the list changes, nor the program counter, the system state or any byte of
memory; the devices are as in `t`, the state after the operands were read. -/
def Keeps (changed : List Place) (s t u : State) : Prop :=
  SameRegsBut changed s u ∧ u.pc = s.pc ∧ SameSystem s u ∧ SameMemory s u ∧ SameDevices t u

/-! ## Flags, in integers -/

/-- The number is a 36-bit signed number. -/
def Fits36 (z : Int) : Prop := -2 ^ 35 ≤ z ∧ z < 2 ^ 35

/-- Z, M, E and N describe the 36-bit value `v` (R37 to R39, R42, R180). -/
def ZMEN (v : Acc36) (f : Flags) : Prop :=
  (f.z = true ↔ v.toInt = 0) ∧ (f.m = true ↔ v.toInt < 0) ∧
    (f.e = true ↔ ¬(-2 ^ 31 ≤ v.toInt ∧ v.toInt < 2 ^ 31)) ∧
    (f.n = true ↔ v.toInt = 0 ∨ (2 ^ 30 ≤ v.toInt ∧ v.toInt < 2 ^ 31) ∨ (-2 ^ 31 ≤ v.toInt ∧ v.toInt < -2 ^ 30))

/-- Z, M and N describe the 36-bit value `v`, and E keeps its value (R340). -/
def ZMN (v : Acc36) (f g : Flags) : Prop := ZMEN v { g with e := decide (¬(-2 ^ 31 ≤ v.toInt ∧ v.toInt < 2 ^ 31)) } ∧ g.e = f.e

/-- V, C, L and R are in `g` as in `f`. -/
def SameVCLR (f g : Flags) : Prop := g.v = f.v ∧ g.c = f.c ∧ g.l = f.l ∧ g.r = f.r

/-- The flags of the exact result `z` of an addition or subtraction that is written as `v`: Z, M, E, N describe
`v`, C is `carry`, V says that `z` is no 36-bit number, L latches V, R is kept (R181). -/
def ArithFlags (v : Acc36) (z : Int) (carry : Prop) (f g : Flags) : Prop :=
  ZMEN v g ∧ (g.c = true ↔ carry) ∧ (g.v = true ↔ ¬Fits36 z) ∧ g.l = (f.l || g.v) ∧ g.r = f.r

/-- Flags of a 16-bit result: Z and M describe `r`, E, N, V, L and R are kept, C is `carry` (R321). -/
def Flags16 (r : Word) (carry : Prop) (f g : Flags) : Prop :=
  (g.z = true ↔ r.toNat = 0) ∧ (g.m = true ↔ 2 ^ 15 ≤ r.toNat) ∧ (g.c = true ↔ carry) ∧
    g.n = f.n ∧ g.v = f.v ∧ g.e = f.e ∧ g.l = f.l ∧ g.r = f.r

/-! ## Effects on an accumulator -/

/-- `acc` takes `x + b`, with the flags of an addition; `changed` are the registers the addressing mode updates. -/
def Adds (acc : Acc) (x b : Acc36) (changed : List Place) (s t u : State) : Prop :=
  getAcc acc u = BitVec.ofInt 36 (x.toInt + b.toInt) ∧
    ArithFlags (getAcc acc u) (x.toInt + b.toInt) (2 ^ 36 ≤ x.toNat + b.toNat) s.fl u.fl ∧
    Keeps (.acc acc :: changed) s t u

/-- `acc` takes `x - b`, with the flags of a subtraction. -/
def Subs (acc : Acc) (x b : Acc36) (changed : List Place) (s t u : State) : Prop :=
  getAcc acc u = BitVec.ofInt 36 (x.toInt - b.toInt) ∧
    ArithFlags (getAcc acc u) (x.toInt - b.toInt) (x.toNat < b.toNat) s.fl u.fl ∧
    Keeps (.acc acc :: changed) s t u

/-- The flags of `x - b` are set, and no accumulator changes. -/
def Compares (x b : Acc36) (changed : List Place) (s t u : State) : Prop :=
  ArithFlags (BitVec.ofInt 36 (x.toInt - b.toInt)) (x.toInt - b.toInt) (x.toNat < b.toNat) s.fl u.fl ∧
    Keeps changed s t u

/-- `acc` takes `v`; Z, M, E, N describe `w`, the other flags are kept. -/
def Logic (acc : Acc) (v w : Acc36) (changed : List Place) (s t u : State) : Prop :=
  getAcc acc u = v ∧ ZMEN w u.fl ∧ SameVCLR s.fl u.fl ∧ Keeps (.acc acc :: changed) s t u

/-- `acc` takes `v`; Z, M, N describe `v`, the other flags are as in `t` (R340). -/
def MovesTo (acc : Acc) (v : Acc36) (changed : List Place) (s t u : State) : Prop :=
  getAcc acc u = v ∧ ZMN v t.fl u.fl ∧ SameVCLR t.fl u.fl ∧ Keeps (.acc acc :: changed) s t u

/-- `acc` takes `v`, and the flags are as in `t`. -/
def TakesOnly (acc : Acc) (v : Acc36) (changed : List Place) (s t u : State) : Prop :=
  getAcc acc u = v ∧ u.fl = t.fl ∧ Keeps (.acc acc :: changed) s t u

/-- pop: Z, M, N when the register is in ac, no flag when it is in bc (R390). -/
def PopsTo (acc : Acc) (v : Acc36) (changed : List Place) (s t u : State) : Prop :=
  match acc with
  | .a0 | .a1 => MovesTo acc v changed s t u
  | .b0 | .b1 => TakesOnly acc v changed s t u

/-- movp: Z, M, N, E when the register is in ac, no flag when it is in bc (R375). -/
def MovpsTo (acc : Acc) (v : Acc36) (changed : List Place) (s t u : State) : Prop :=
  match acc with
  | .a0 | .a1 => getAcc acc u = v ∧ ZMEN v u.fl ∧ SameVCLR t.fl u.fl ∧ Keeps (.acc acc :: changed) s t u
  | .b0 | .b1 => TakesOnly acc v changed s t u

/-- The exact value of a shift by `n`: times 2^n to the left, divided by 2^-n and rounded down to the right. -/
def shiftExact (v n : Int) : Int := if 0 ≤ n then v * 2 ^ n.toNat else v / 2 ^ (-n).toNat

/-- The last bit a shift by `n` moves out of `v` is 1 (R240). -/
def lostBit (v : Acc36) (n : Int) : Prop :=
  (0 < n ∧ v.getLsbD (36 - n).toNat = true) ∨ (n < 0 ∧ v.getLsbD (-n - 1).toNat = true)

/-- `acc` takes `v` shifted by `n`, -36 ≤ n ≤ 36: arithmetically with the flags of R241 when st2.S is 0, logically with
those of R242 when it is 1. -/
def ShiftsTo (acc : Acc) (v : Acc36) (n : Int) (changed : List Place) (s t u : State) : Prop :=
  (if s.md.s then
    getAcc acc u = BitVec.ofInt 36 (shiftExact v.toNat n) ∧ ZMEN (getAcc acc u) u.fl ∧
      (u.fl.c = true ↔ lostBit v n) ∧ u.fl.v = s.fl.v ∧ u.fl.l = s.fl.l ∧ u.fl.r = s.fl.r
  else
    getAcc acc u = BitVec.ofInt 36 (shiftExact v.toInt n) ∧
      ArithFlags (getAcc acc u) (shiftExact v.toInt n) (lostBit v n) s.fl u.fl) ∧
    Keeps (.acc acc :: changed) s t u

/-- The shift amount is outside -36 to 36 (U7): `acc` takes some value, which Z, M, E and N describe; V and L are kept
in logical mode, L latches V in arithmetic mode; nothing else changes but the count of free values. -/
def ShiftsFree (acc : Acc) (changed : List Place) (s t u : State) : Prop :=
  ZMEN (getAcc acc u) u.fl ∧ u.fl.r = s.fl.r ∧
    (if s.md.s then u.fl.v = s.fl.v ∧ u.fl.l = s.fl.l else u.fl.l = (s.fl.l || u.fl.v)) ∧
    SameRegsBut (.acc acc :: changed) s u ∧ u.pc = s.pc ∧ SameSystem s u ∧ SameMemory s u ∧
    u.codec = t.codec ∧ u.ocem = t.ocem ∧ u.extLog = t.extLog

/-- One or the other, by the amount. -/
def ShiftsBy (acc : Acc) (v : Acc36) (n : Int) (changed : List Place) (s t u : State) : Prop :=
  if -36 ≤ n ∧ n ≤ 36 then ShiftsTo acc v n changed s t u else ShiftsFree acc changed s t u

/-! ## Effects on a register of class REG, and on memory -/

/-- The register `q` takes the word `v`, and the flags are as in `t`. -/
def PlaceTakes (q : Place) (v : Word) (changed : List Place) (s t u : State) : Prop :=
  q.value u = v.toNat ∧ u.fl = t.fl ∧ Keeps (q :: changed) s t u

/-- A register of class REG takes the word `v` (R172). `eff` says what a write of an accumulator does besides: for
a0 and a1 the word is sign-extended; a low half clears the rest; a high half clears the low half and extends the
sign. st0 takes flags, IM1, IM0, IE, SAT and a0[35:32]; st1 takes PS, PAGE and a1[35:32]; st2 takes its bits 9 to 0;
p takes its high half and is signed from then on; a port is written once. -/
def RegTakes (eff : Acc → Acc36 → List Place → State → State → State → Prop) (r : Reg) (v : Word)
    (changed : List Place) (s t u : State) : Prop :=
  match r with
  | .r0 => PlaceTakes (.rn .r0) v changed s t u
  | .r1 => PlaceTakes (.rn .r1) v changed s t u
  | .r2 => PlaceTakes (.rn .r2) v changed s t u
  | .r3 => PlaceTakes (.rn .r3) v changed s t u
  | .r4 => PlaceTakes (.rn .r4) v changed s t u
  | .r5 => PlaceTakes (.rn .r5) v changed s t u
  | .rb => PlaceTakes .rb v changed s t u
  | .y => PlaceTakes .y v changed s t u
  | .sp => PlaceTakes .sp v changed s t u
  | .cfgi => PlaceTakes .cfgi v changed s t u
  | .cfgj => PlaceTakes .cfgj v changed s t u
  | .lc => PlaceTakes .lc v changed s t u
  | .sv => PlaceTakes .sv v changed s t u
  | .st0 => st0Image u = v ∧ u.regs.a0.toNat % 2 ^ 32 = t.regs.a0.toNat % 2 ^ 32 ∧
      u = { t with
        regs := { t.regs with a0 := u.regs.a0 }
        fl := u.fl
        md := { t.md with im1 := u.md.im1, im0 := u.md.im0, ie := u.md.ie, sat := u.md.sat } }
  | .st1 => st1Image u = v &&& 0xFCFF#16 ∧ u.regs.a1.toNat % 2 ^ 32 = t.regs.a1.toNat % 2 ^ 32 ∧
      u = { t with regs := { t.regs with a1 := u.regs.a1 }, md := { t.md with ps := u.md.ps, page := u.md.page } }
  | .st2 => st2Image u &&& 0x03FF#16 = v &&& 0x03FF#16 ∧
      u = { t with md := { t.md with
        ou1 := u.md.ou1, ou0 := u.md.ou0, s := u.md.s, im2 := u.md.im2, mEn := u.md.mEn } }
  | .p => u.regs.p.toNat = v.toNat * 2 ^ 16 + t.regs.p.toNat % 2 ^ 16 ∧ u.regs.pUnsigned = false ∧ u.fl = t.fl ∧
      Keeps (.p :: changed) s t u
  | .pc => u = { t with pc := v }
  | .ext0 => PortTakes 0 v t u
  | .ext1 => PortTakes 1 v t u
  | .ext2 => PortTakes 2 v t u
  | .ext3 => PortTakes 3 v t u
  | .a0 => eff .a0 (BitVec.ofInt 36 v.toInt) changed s t u
  | .a1 => eff .a1 (BitVec.ofInt 36 v.toInt) changed s t u
  | .a0l => eff .a0 (BitVec.ofNat 36 v.toNat) changed s t u
  | .a1l => eff .a1 (BitVec.ofNat 36 v.toNat) changed s t u
  | .b0l => eff .b0 (BitVec.ofNat 36 v.toNat) changed s t u
  | .b1l => eff .b1 (BitVec.ofNat 36 v.toNat) changed s t u
  | .a0h => eff .a0 (BitVec.ofInt 36 (v.toInt * 65536)) changed s t u
  | .a1h => eff .a1 (BitVec.ofInt 36 (v.toInt * 65536)) changed s t u
  | .b0h => eff .b0 (BitVec.ofInt 36 (v.toInt * 65536)) changed s t u
  | .b1h => eff .b1 (BitVec.ofInt 36 (v.toInt * 65536)) changed s t u
where
  /-- One EXT_WRITE; the emulation module changes only when its EXTWE bit is set (R67, R507, R580). -/
  PortTakes (k : BitVec 2) (v : Word) (t u : State) : Prop :=
    u.extLog = t.extLog ++ [.write k v] ∧ u = { t with extLog := u.extLog, ocem := u.ocem } ∧
      (t.ocem.mode0.getLsbD 5 = false → u.ocem = t.ocem)

/-- The word address whose two bytes a data write at `a` changes: `a` itself, or the mailbox word `a` aliases
(R521). -/
def cellOf (a : Word) : Word := if dataRegion a = .mailbox then mailboxAddr (a.extractLsb' 0 8) else a

/-- The word `v` is stored at data address `a`: `u` is the state `w` after the data write; no byte outside the two
bytes of the word changes; at a RAM address of a canonical memory the word reads `v`; registers but those of the list, flags of `t`, the
program counter and the core's system state are kept. -/
def Stored (a v : Word) (changed : List Place) (s t w u : State) : Prop :=
  u = w ∧ (∀ k, k ≠ 2 * (cellOf a).toNat → k ≠ 2 * (cellOf a).toNat + 1 → memByte u.data k = memByte s.data k) ∧
    (∀ k, memByte u.prog k = memByte s.prog k) ∧ (Memory.wf s.data = true → dataRegion a = .ram → memWord u.data a = v) ∧
    SameRegsBut changed s u ∧ u.pc = s.pc ∧ u.fl = t.fl ∧ SameCore s u

/-! ## The trace buffer -/

/-- The trace buffer `old` after the records `new` (R514, R515, log 24): the used stages of `old` in their order and then
`new`, the last sixteen of them, with unused stages before them where there are fewer. -/
def traceAfter (old new : List TraceEntry) : List TraceEntry :=
  let kept := old.filter (· ≠ traceUnused) ++ new
  List.replicate (16 - kept.length) traceUnused ++ kept.drop (kept.length - 16)

/-- From `t` to `u` the trace buffer takes the records `new` (R514): TBF is set exactly when it was, or when TBFE is set
and the buffer becomes full, which requests BI. -/
def TraceTakes (new : List TraceEntry) (t u : State) : Prop :=
  let fills := t.ocem.mode0.getLsbD 12 = true ∧ traceUnused ∈ t.ocem.trace ∧ traceUnused ∉ u.ocem.trace
  u.ocem.trace = traceAfter t.ocem.trace new ∧
    (u.ocem.status0.getLsbD 13 = true ↔ t.ocem.status0.getLsbD 13 = true ∨ fills) ∧ (fills → u.ocem.biReq = true)

/-- From `t` to `u` the trace buffer takes no record, and TBF is kept. -/
def TraceKept (t u : State) : Prop :=
  u.ocem.trace = t.ocem.trace ∧ u.ocem.status0.getLsbD 13 = t.ocem.status0.getLsbD 13

/-- The stages that the jump of `i` at `a` to `target` fills (R514, principles 2 and 3): one with tag 1 when the destination
is coded in the program, by br, brr, call and callr, else two with tag 0; mov ##long, pc is one of the latter (log 47). -/
def jumpRecord (i : Instr) (a target : Word) : List TraceEntry :=
  match i with
  | .br _ _ | .brr _ _ | .call _ _ | .callr _ _ => [⟨true, a⟩]
  | _ => [⟨false, a⟩, ⟨false, target⟩]

/-! ## Products -/

/-- p takes the 32 low bits of `a * b`, y and x their factors; p is marked unsigned when both factors are (R24, R290,
D14). -/
def Product (ySigned xSigned : Bool) (y x : Word) (u : State) : Prop :=
  u.regs.y = y ∧ u.regs.x = x ∧
    u.regs.p = BitVec.ofInt 32 ((if ySigned then y.toInt else y.toNat) * (if xSigned then x.toInt else x.toNat)) ∧
    u.regs.pUnsigned = (!ySigned && !xSigned)

/-! ## Operand forms

`P changed v t u` is said of the word `v` that was read, the state `t` after the reading, and the next state `u`. -/

/-- An instruction whose operand is the word at PAGE ## d (R90). -/
def DirectForm (i : BitVec 8 → Instr) (s : State) (P : List Place → Word → State → State → Prop) : Prop :=
  ∀ d v t, Reads (directAddr d s) s v t → Gives (exec (i d) s) (P [] v t)

/-- An instruction whose operand is the word at rN, which is post-modified (R92, R100). -/
def IndForm (i : RN → PostMod → Instr) (s : State) (P : List Place → Word → State → State → Prop) : Prop :=
  ∀ n m v t, Reads (getRN n s) (postMod n m false s) v t →
    Gives (exec (i n m) s) fun u => P [.rn n] v t u ∧ getRN n u = getRN n (postMod n m false s)

/-- An instruction whose operand is the word at a 16-bit address (R91). -/
def LongDirectForm (i : Word → Instr) (s : State) (P : List Place → Word → State → State → Prop) : Prop :=
  ∀ a v t, Reads a s v t → Gives (exec (i a) s) (P [] v t)

/-- An instruction whose operand is the word at rb + #offset7 (R94). -/
def RbShortForm (i : BitVec 7 → Instr) (s : State) (P : List Place → Word → State → State → Prop) : Prop :=
  ∀ o v t, Reads (BitVec.ofInt 16 (s.regs.rb.toInt + o.toInt)) s v t → Gives (exec (i o) s) (P [] v t)

/-- An instruction whose operand is the word at rb + ##offset (R95). -/
def RbLongForm (i : Word → Instr) (s : State) (P : List Place → Word → State → State → Prop) : Prop :=
  ∀ o v t, Reads (BitVec.ofNat 16 (s.regs.rb.toNat + o.toNat)) s v t → Gives (exec (i o) s) (P [] v t)

/-- An instruction whose operand is a register, 16 bits, accumulator halves raw (R170). -/
def RegForm (i : Reg → Instr) (s : State) (P : List Place → Word → State → State → Prop) : Prop :=
  ∀ r, (i r).wf = true → Gives (exec (i r) s) (P [] (readReg r s).1 (readReg r s).2)

/-- An instruction with the Y operand at rJ and the X operand at rI, both post-modified (R93). `P` is given the Y
word, then the X word. -/
def DualForm (i : RJ → PostMod → RI → PostMod → Instr) (s : State)
    (P : List Place → Word → Word → State → State → Prop) : Prop :=
  ∀ j mj k mk y t1 x t, readY j mj s = .next (y, t1) → readX k mk t1 = .next (x, t) →
    Gives (exec (i j mj k mk) s) fun u => P [.rn (rnOfJ j), .rn (rnOfI k)] y x t u ∧
      getRN (rnOfJ j) u = getRN (rnOfJ j) t ∧ getRN (rnOfI k) u = getRN (rnOfI k) t

/-! ## What the order rules say of an instruction, form by form -/

/-- Index addressing: (rb + #offset7) and (rb + ##offset) (R94, R95, R565). -/
def usesIndex (i : Instr) : Prop :=
  match i with
  | .orRbShort _ _ | .orRbLong _ _ | .andRbShort _ _ | .andRbLong _ _ | .xorRbShort _ _ | .xorRbLong _ _
  | .addRbShort _ _ | .addRbLong _ _ | .cmpRbShort _ _ | .cmpRbLong _ _ | .subRbShort _ _ | .subRbLong _ _
  | .movRbShortA _ _ | .movARbShort _ _ | .movRbLongA _ _ | .movARbLong _ _ => True
  | _ => False

/-- `r` is the register operand that `i` reads. -/
def readsReg (i : Instr) (r : Reg) : Prop :=
  match i with
  | .orReg _ q | .andReg _ q | .xorReg _ q | .addReg _ q | .tst0AccReg _ q | .tst1AccReg _ q | .cmpReg _ q
  | .subReg _ q | .msuReg _ q | .addhReg _ q | .addlReg _ q | .subhReg _ q | .sublReg _ q | .sqraReg _ q
  | .cmpuReg _ q | .setReg _ q | .rstReg _ q | .chngReg _ q | .addvReg _ q | .subvReg _ q | .tst0LongReg _ q
  | .tst1LongReg _ q | .cmpvReg _ q | .macReg _ q | .macusReg _ q | .maaReg _ q | .macuuReg _ q | .macsuReg _ q
  | .maasuReg _ q | .sqrReg q | .mpyReg q | .mpysuReg q | .pushReg q | .repReg q | .tstbReg q _ | .expReg q _
  | .movRegReg q _ | .movRegB q _ | .movRegMixp q | .movRegInd q _ _ | .movRegIcr q | .movsReg q _
  | .movrReg q _ | .bkrepReg q _ =>
    q = r
  | .movRnDirect n _ | .movsi n _ _ => regOfStar n = r
  | .movSvDirect _ => r = .sv
  | _ => False

/-- `r` is the register operand that `i` writes. -/
def writesReg (i : Instr) (r : Reg) : Prop :=
  match i with
  | .movRegReg _ q | .movMixpReg q | .movIndReg _ _ q | .movSpReg q | .movLongReg _ q | .movpAccReg _ q
  | .pop q | .setReg _ q | .rstReg _ q | .chngReg _ q | .addvReg _ q | .subvReg _ q =>
    q = r
  | .movDirectRn _ n | .movShortRn _ n => regOfStar n = r
  | .movDirectSv _ | .movShortSv _ => r = .sv
  | _ => False

/-- set, rst, chng, addv and subv on a register (R425 item 4). -/
def isBitFieldReg (i : Instr) : Prop :=
  match i with
  | .setReg _ _ | .rstReg _ _ | .chngReg _ _ | .addvReg _ _ | .subvReg _ _ => True
  | _ => False

/-- The instructions R421 lists, but for the writes of pc; retd by its derived remark. -/
def neverRepeated (i : Instr) : Prop :=
  match i with
  | .brr _ _ | .callr _ _ | .trap | .ret _ | .reti _ _ | .retid | .retd | .rets _ | .repReg _ | .repShort _ | .calla _
  | .movSpecAcc .repc _ => True
  | _ => False

/-- `i` may not stand at address `a` of a block-repeat body from `first` to `last` (R425 items 1 to 4 and 7; callr in
item 2 by its derived remark). -/
def misplacedIn (i : Instr) (a first last : Word) : Prop :=
  (a = first ∧ match i with
    | .brk | .movRegIcr _ | .movShortIcr _ | .movIcrAcc _ => True
    | _ => False) ∨
  ((a = last ∨ a = last - 1) ∧ (writesReg i .pc ∨ writesReg i .lc ∨ readsReg i .lc ∨ match i with
    | .br _ _ | .brr _ _ | .call _ _ | .callr _ _ | .calla _ | .ret _ | .reti _ _ | .rets _ | .retd | .retid
    | .bkrepShort _ _ | .bkrepReg _ _ | .repReg _ | .repShort _ | .movIcrAcc _ => True
    | _ => False)) ∨
  (a = first + 1 ∧ writesReg i .lc) ∨ (a = first + 2 ∧ writesReg i .lc ∧ isBitFieldReg i) ∨ (a = last ∧ i = .brk)

/-- `i` transfers control from state `s`: a transfer whose condition holds, calla or rets (R414, derived remark). -/
def transfers (i : Instr) (s : State) : Prop :=
  match i with
  | .br _ cc | .brr _ cc | .call _ cc | .callr _ cc | .ret cc | .reti cc _ => condHolds cc s = true
  | .calla _ | .rets _ => True
  | _ => False

/-- Table 14 (R464): when the instruction `i`, which runs at `a` in state `b`, delays interrupts, and by how many cycles INT0
and INT1, INT2, and BI. The row of the last repetition holds BI too (R420, R462, log 20). -/
def delayRows (i : Instr) (a : Word) (b : State) : List (Prop × Nat × Nat × Nat) :=
  let short := fun r : Reg => writesReg i r ∧ ∀ v, i ≠ .movLongReg v r
  let long := fun r : Reg => ∃ v, i = .movLongReg v r
  let repeated := b.ctl.repActive = true ∧ a = b.ctl.repAddr
  let untaken := match i with
    | .br _ cc | .call _ cc | .ret cc | .reti cc _ => condHolds cc b = false
    | _ => False
  let holdsBoth := match i with
    | .retd | .retid | .repReg _ | .repShort _ => True
    | _ => False
  [(untaken, 1, 1, 0),
    (short .sp ∧ i ≠ .pop .sp, 1, 1, 0),
    (repeated ∧ b.regs.repc = 0, 1, 1, 1),
    (repeated ∧ b.ctl.repResumed = true, 1, 1, 0),
    (b.ctl.trapRet = true, 1, 1, 0),
    (short .st0, 2, 2, 0),
    (long .st0, 1, 1, 0),
    (short .st2, 1, 2, 0),
    (long .st2, 0, 1, 0),
    (holdsBoth, 2, 2, 2),
    (short .pc ∧ i ≠ .pop .pc ∧ ¬isBitFieldReg i, 2, 2, 2),
    (long .pc, 1, 1, 1)]

/-- max, maxd and min. -/
def isExtremum (i : Instr) : Prop :=
  match i with
  | .max _ _ _ | .maxd _ _ _ | .min _ _ _ => True
  | _ => False

/-- exp. -/
def isExp (i : Instr) : Prop :=
  match i with
  | .expInd _ _ _ | .expReg _ _ | .expAcc _ _ => True
  | _ => False

/-- mov soperand, icr. -/
def writesIcr (i : Instr) : Prop :=
  match i with
  | .movRegIcr _ | .movShortIcr _ => True
  | _ => False

/-- `j` may not stand right after `i` (R565, R567 to R570). -/
def mayNotFollow (i j : Instr) : Prop :=
  ((writesReg i .rb ∧ ∀ v, i ≠ .movLongReg v .rb) ∧ usesIndex j) ∨
    (isExtremum i ∧ ∃ r, j = .movMixpReg r) ∨
    (isExp i ∧ (readsReg j .sv ∨ writesReg j .sv) ∧ ∀ acc, j ≠ .movsReg .sv acc) ∨
    (writesReg i .sp ∧ ((∃ r, j = .pushReg r) ∨ ∃ v, j = .pushLong v)) ∨
    (writesIcr i ∧ ((∃ v b, j = .bkrepShort v b) ∨ ∃ r b, j = .bkrepReg r b))

/-- `i` is the instruction that the words at `a` of `m` are. -/
def Holds (m : Mem) (a : Word) (i : Instr) : Prop := decode (memWord m a) (memWord m (a + 1)) = .ok i

/-- The `n` words from `a` are instructions in sequence, of which `i` is the last (R425 item 5, log 46). -/
inductive EndsWith (m : Mem) : Nat → Word → Instr → Prop
  | here {a : Word} {i : Instr} : Holds m a i → EndsWith m (instrInfo i).words a i
  | later {n : Nat} {a : Word} {i j : Instr} : Holds m a j → 0 < n →
      EndsWith m n (a + BitVec.ofNat 16 (instrInfo j).words) i → EndsWith m ((instrInfo j).words + n) a i

/-- The order rules, each with when the instruction `i` at address `a` breaks it in state `s` (R565 to R570, R421, R425,
R414). -/
def orderRules (i : Instr) (a : Word) (s : State) : List (SeqRule × Prop) :=
  let nop := fun b : Word => b.toNat < 0x6000 ∧ memWord s.prog b = 0
  let next := a + BitVec.ofNat 16 (instrInfo i).words
  [(.rbThenIndex, s.tm.hazRb = true ∧ usesIndex i),
    (.mixpAfterMax, s.tm.hazMixp = true ∧ ∃ r, i = .movMixpReg r),
    (.svAfterExp, s.tm.hazExp = true ∧ (readsReg i .sv ∨ writesReg i .sv) ∧ ∀ acc, i ≠ .movsReg .sv acc),
    (.pushAfterSp, s.tm.hazSp = true ∧ ((∃ r, i = .pushReg r) ∨ ∃ v, i = .pushLong v)),
    (.bkrepAfterIcr, s.tm.hazIcr = true ∧ ((∃ v b, i = .bkrepShort v b) ∨ ∃ r b, i = .bkrepReg r b)),
    (.pcWithoutNops, writesReg i .pc ∧ ¬(nop next ∧ ((∃ v, i = .movLongReg v .pc) ∨ nop (next + 1)))),
    (.notRepeatable, s.ctl.repActive = true ∧ a = s.ctl.repAddr ∧
      ((instrInfo i).words = 2 ∨ writesReg i .pc ∨ neverRepeated i)),
    (.blockPlacement, s.ctl.lp = true ∧ (misplacedIn i a s.ctl.bkStart s.ctl.bkEnd ∨
      (∃ l ∈ s.ctl.bkSaved, misplacedIn i a l.first l.last) ∨ (∃ b, i = .bkrepReg .lc b) ∨
      (a = s.ctl.bkStart ∧ ∃ l, EndsWith s.prog ((s.ctl.bkEnd - a).toNat + 1) a l ∧ mayNotFollow l i) ∨
      (next - 1 = s.ctl.bkEnd ∧ ∃ j, Holds s.prog s.ctl.bkStart j ∧ mayNotFollow i j))),
    (.delaySlot, s.ctl.delayCount ≠ 0 ∧ (writesReg i .pc ∨ transfers i s ∨ s.ctl.delayCount < cyclesOf (instrInfo i) s ∨
      match i with
      | .brr _ _ | .callr _ _ | .repReg _ | .repShort _ | .trap | .retd | .retid => True
      | _ => False))]

end Sys2Proof.Machine
end

