-- ==== Sys2Proof/Certificates/Slice0/Obligations.lean ====
section
/-! DEFINITION. The statements for the provers. `exec` is given the state with the program counter already past the
words of the instruction (log 27). -/

open Sys2Proof Sys2Proof.Machine

/-! ## Encoding and decoding -/

/-- Six words written out from the encodings of R145 to R156 decode to the instructions they stand for. Two of the
patterns, those of add with a register and of shl of an a-accumulator, are of grade G: presumed from general knowledge
(R133, log 29, log 31). -/
def Obligations.DecodeWords : Prop :=
  decode 0b1000011010101011#16 0 = .ok (.addReg .a0 .p) ∧
    decode 0b0110011100100000#16 0 = .ok (.shlA .a0 .always) ∧
    decode 0b0000110000000111#16 0 = .ok (.repShort 7) ∧
    decode 0b1101001000101000#16 0 = .ok (.macDual .a0 .r4 .inc .r0 .inc) ∧
    decode 0b0100000110000001#16 0x1234#16 = .ok (.br 0x1234 .eq) ∧
    decode 0b0000000000100000#16 0 = .ok .trap

/-- The encoding of an instruction decodes to it, whatever the values of its operands. The bits the table leaves open
are written 0, decision D15 (log 29). -/
def Obligations.DecodeEncode : Prop :=
  ∀ i : Instr, decode ((encode i).getD 0 0) ((encode i).getD 1 0) = .ok i ∧
    (encode i).length = (instrInfo i).words ∧ ((encode i).length = 1 ∨ (encode i).length = 2)

/-- No word belongs to two rows of the opcode table (R132). -/
def Obligations.OneRowEach : Prop :=
  ∀ (w : Word) (m n : Nat) (x y : OpRow), opRows[m]? = some x → opRows[n]? = some y →
    w &&& x.mask = x.pattern → w &&& y.mask = y.pattern → m = n

/-! ## The step -/

/-- When no agent acts, no interrupt is taken and no order rule is broken, the step runs the instruction that the words at
the program counter decode to: the program counter is moved past its words, exec runs it, and the sequencing of R400
follows. Without breakpoints the emulation module does nothing on the fetch. -/
def Obligations.StepRunsInstruction : Prop :=
  ∀ (s t : State) (i : Instr), s.inputs = [] → biAccepted s = false → intAccepted s = none →
    t = ocemFetch s.pc s → biAccepted t = false → progMapped s.pc = true →
    ((instrInfo i).words = 2 → progMapped (s.pc + 1) = true) →
    decode (memWord s.prog s.pc) (memWord s.prog (s.pc + 1)) = .ok i → orderRefusal (instrInfo i) s.pc t = none →
    step s = andThen (exec i { t with pc := s.pc + BitVec.ofNat 16 (instrInfo i).words })
        (fun u => .next (afterInstr i s.pc t u)) ∧
      (s.ocem.mode0 = 0 → t = s)

/-- A word that is in no row of the opcode table, or names a register or option that does not exist, is refused by name; a
fetch outside the program memory faults. -/
def Obligations.ReservedWordsRefused : Prop :=
  ∀ (s : State), s.inputs = [] → biAccepted s = false → intAccepted s = none → s.ocem.mode0 = 0 →
    (∀ e, progMapped s.pc = true → decode (memWord s.prog s.pc) 0 = .error e → step s = .refused (.reserved e)) ∧
      (progMapped s.pc = false → step s = .fault .unmappedProg)

/-! ## Reset and the invariant -/

/-- The values R75, R524, R531, R552 and R555 give for reset. The decisions among them are D1, D28 and D32 (log 32). -/
def Obligations.ResetValues : Prop :=
  let s := State.reset
  s.pc = 0 ∧ st0Image s &&& 0x0FFF#16 = 0 ∧ s.md.ps = 0 ∧ st2Image s &&& 0x03FF#16 = 0 ∧ icrImage s = 0 ∧
    s.regs.pUnsigned = false ∧ s.ctl.inTrap = false ∧ s.ctl.repActive = false ∧ s.ctl.delayCount = 0 ∧
    s.ocem.status0 = 0 ∧ s.ocem.mode0 = 0 ∧ s.ocem.mvd = false ∧ s.codec.cnt = 0x0800 ∧ s.codec.frm = 0x0096 ∧
    s.codec.sck = 0x401F ∧ s.codec.sts = 0 ∧ s.dpmb.sem = 0

/-- The state after reset meets the invariant. -/
def Obligations.ResetInv : Prop := State.reset.Inv

/-- Every step from a state that meets the invariant leads to one that meets it: whatever the program, the other
agents and the free values. In the invariant, that the reserved bits 10 to 8 of STATUS0 read 0 is the model's choice
(log 36), and that a clear of LP waits for a running level is its reading of D24 (log 23). -/
def Obligations.StepKeepsInv : Prop := ∀ s t : State, s.Inv → step s = .next t → t.Inv

/-! ## Memory and addressing -/

/-- A data write at a RAM address is followed by the same word on a read; every other byte of data memory, all of program
memory and the rest of the state are unchanged when the emulation module watches nothing. -/
def Obligations.RamWriteRead : Prop :=
  ∀ (a v : Word) (s : State), Memory.wf s.data = true → dataRegion a = .ram → s.ocem.mode0 = 0 →
    Gives (dataWrite a v s) fun u => Reads a u v u ∧ u = { s with data := u.data } ∧
      ∀ k, k ≠ 2 * a.toNat → k ≠ 2 * a.toNat + 1 → memByte u.data k = memByte s.data k

/-- What a data address reaches (R83, R500, R521), at the first and last address of every region and at every address
between; what a data read answers there, and that it changes no byte of memory and no register (R84). An unmapped
address faults, as UNMAPPED_DATA has its default (log 4, log 5); an ignored read is free (log 12). That bit 11 tells the
semaphores from the mailbox RAM is an inference of the spec, and that the aliases from 0xE100 and from 0xE808 up reach
the same words and semaphores, where R521 lets a model leave them unmapped, is the model's choice (R521, log 28). -/
def Obligations.DataReads : Prop :=
  (∀ p ∈ [(0x0000#16, DataRegion.ram), (0x07FF#16, .ram), (0x0800#16, .unmapped), (0x3FFF#16, .unmapped),
      (0x4000#16, .ram), (0x7FFF#16, .ram), (0x8000#16, .unmapped), (0xDFFF#16, .unmapped), (0xE000#16, .mailbox),
      (0xE0FF#16, .mailbox), (0xE100#16, .mailbox), (0xE7FF#16, .mailbox), (0xE800#16, .semaphore),
      (0xE807#16, .semaphore), (0xE808#16, .semaphore), (0xEBFF#16, .semaphore), (0xEC00#16, .codec),
      (0xEC01#16, .unmapped), (0xEC02#16, .codec), (0xEC03#16, .unmapped), (0xEC04#16, .codec), (0xEC05#16, .unmapped),
      (0xEC06#16, .codec), (0xEC07#16, .unmapped), (0xEC08#16, .codec), (0xEC09#16, .unmapped), (0xEC0A#16, .codec),
      (0xEC0B#16, .unmapped), (0xEFFF#16, .unmapped), (0xF000#16, .unmapped), (0xF7EF#16, .unmapped),
      (0xF7F0#16, .ocem), (0xF7F1#16, .ocem), (0xF7F2#16, .ocem), (0xF7F3#16, .ocem), (0xF7F4#16, .unmapped),
      (0xF7F6#16, .unmapped), (0xF7F7#16, .ocem), (0xF7F8#16, .ocem), (0xF7F9#16, .ocem), (0xF7FA#16, .ocem),
      (0xF7FB#16, .ocem), (0xF7FC#16, .unmapped), (0xF7FD#16, .ocem), (0xF7FE#16, .ocem), (0xF7FF#16, .ocem),
      (0xF800#16, .ram), (0xFFFF#16, .ram)], dataRegion p.1 = p.2) ∧
  ∀ (a : Word) (s : State),
    (dataRegion a = .ram ↔ a.toNat ≤ 0x07FF ∨ (0x4000 ≤ a.toNat ∧ a.toNat ≤ 0x7FFF) ∨ 0xF800 ≤ a.toNat) ∧
      (dataRegion a = .mailbox ↔ 0xE000 ≤ a.toNat ∧ a.toNat ≤ 0xE7FF) ∧
      (dataRegion a = .semaphore ↔ 0xE800 ≤ a.toNat ∧ a.toNat ≤ 0xEBFF) ∧
      (dataRegion a = .codec ↔ 0xEC00 ≤ a.toNat ∧ a.toNat ≤ 0xEC0A ∧ a.toNat % 2 = 0) ∧
      (dataRegion a = .ocem ↔ 0xF7F0 ≤ a.toNat ∧ a.toNat ≤ 0xF7FF ∧ ¬(0xF7F4 ≤ a.toNat ∧ a.toNat ≤ 0xF7F6) ∧
        a.toNat ≠ 0xF7FC) ∧
      (dataRegion a = .unmapped → dataRead a s = .fault .unmappedData) ∧
      (dataRegion a ≠ .unmapped → Gives (dataRead a s) fun q =>
        SameRegsBut [] s q.2 ∧ q.2.pc = s.pc ∧ q.2.fl = s.fl ∧ SameSystem s q.2 ∧ SameMemory s q.2) ∧
      (s.ocem.mode0 = 0 →
        (dataRegion a = .ram → Reads a s (memWord s.data a) s) ∧
        (dataRegion a = .mailbox → oakOwns s.dpmb (a.extractLsb' 0 8) = true →
          Reads a s (memWord s.data (0xE000#16 + (a.extractLsb' 0 8).setWidth 16)) s) ∧
        (dataRegion a = .mailbox → oakOwns s.dpmb (a.extractLsb' 0 8) = false →
          Gives (dataRead a s) fun q => q.2 = { s with freeCount := s.freeCount + 1 }) ∧
        (dataRegion a = .semaphore → Gives (dataRead a s) fun q => q.2 = s ∧
          (q.1.getLsbD 0 = s.dpmb.sem.getLsbD (a.toNat % 8)) ∧ (q.1.getLsbD 1 = s.dpmb.ais.getLsbD (a.toNat % 8)) ∧
          (q.1.getLsbD 2 = s.dpmb.ois.getLsbD (a.toNat % 8)) ∧ q.1.toNat < 8))

/-- Codec and emulation registers as the core reads them (R502, R505, R515, R531, R535, R537), when the emulation module
watches nothing, because MODE0 is 0 or the core is in the TRAP/BI routine; MODE0 itself in every state. CODSTS gives the
latches and clears them; CODTX and an empty CODRX give a word the spec leaves open and change nothing but the count of
free values (log 12); CODRX gives the oldest entry, in two halves when DWS is set, the high half first (log 5), the
entry being gone after the first (log 35), and RXE is set when the last word is read; PFT gives a trace stage and
STATUS1.TREI its tag. Reserved bits read 0 (log 36). The six bits of PABCx (R502), that nothing acts inside the routine
(R503), and a codec read that leaves CODTX open (R531) are inferences of the spec (log 42); the order of the trace
stages is C48 (log 24). -/
def Obligations.DeviceReads : Prop :=
  ∀ (s : State),
    Gives (dataRead 0xF7FD s) (fun q => q.1 = s.ocem.mode0 ∧ q.2 = { s with ocem := q.2.ocem }) ∧
    (s.ocem.mode0 = 0 ∨ s.ctl.inTrap = true →
      Reads 0xEC00 s s.codec.cnt s ∧ Reads 0xEC02 s s.codec.frm s ∧ Reads 0xEC04 s s.codec.sck s ∧
      Reads 0xEC06 s (s.codec.sts.setWidth 16) { s with codec := { s.codec with sts := 0 } } ∧
      Gives (dataRead 0xEC08 s) (fun q => q.2 = { s with freeCount := s.freeCount + 1 }) ∧
      (s.codec.rxHalf = none → s.codec.rxFifo = [] →
        Gives (dataRead 0xEC0A s) fun q => q.2 = { s with freeCount := s.freeCount + 1 }) ∧
      (∀ e rest, s.codec.rxHalf = none → s.codec.rxFifo = e :: rest →
        (s.codec.sck.getLsbD 11 = false →
          Reads 0xEC0A s (BitVec.ofNat 16 (e.toNat % 65536)) { s with codec := { s.codec with
            rxFifo := rest
            sts := if rest = [] then s.codec.sts ||| 4#7 else s.codec.sts } }) ∧
        (s.codec.sck.getLsbD 11 = true →
          Reads 0xEC0A s (BitVec.ofNat 16 (e.toNat / 65536)) { s with codec := { s.codec with
            rxFifo := rest
            rxHalf := some (BitVec.ofNat 16 (e.toNat % 65536)) } })) ∧
      (∀ h, s.codec.rxHalf = some h → Reads 0xEC0A s h { s with codec := { s.codec with
        rxHalf := none
        sts := if s.codec.rxFifo = [] then s.codec.sts ||| 4#7 else s.codec.sts } }) ∧
      Reads 0xF7FF s s.ocem.status0 s ∧ Reads 0xF7FD s s.ocem.mode0 s ∧ Reads 0xF7FB s s.ocem.dabp s ∧
      Reads 0xF7FA s s.ocem.dam s ∧ Reads 0xF7F1 s s.ocem.pabp1 s ∧ Reads 0xF7F2 s s.ocem.pabp2 s ∧
      Reads 0xF7F3 s s.ocem.pabp3 s ∧ Reads 0xF7F7 s (BitVec.ofNat 16 s.ocem.pabc1.toNat) s ∧
      Reads 0xF7F8 s (BitVec.ofNat 16 s.ocem.pabc2.toNat) s ∧ Reads 0xF7F9 s (BitVec.ofNat 16 s.ocem.pabc3.toNat) s ∧
      (∀ e rest, s.ocem.trace = e :: rest →
        Reads 0xF7F0 s e.addr { s with ocem := { s.ocem with trace := rest ++ [⟨true, 0xFFFF⟩] } } ∧
        Reads 0xF7FE s (BitVec.ofNat 16 (s.ocem.dbg.toNat * 2 ^ 15 + s.ocem.boot.toNat * 2 ^ 14 + s.ocem.err.toNat * 2 ^ 13 +
          s.ocem.mvd.toNat * 2 ^ 12 + e.tag.toNat)) s))

/-- What a data write does in every region, the emulation module watching nothing where the whole next state is given
(R84, R502, R522, R524, R531 to R536): a word in RAM, or in a mailbox the Oak owns, is stored; a mailbox word it does
not own is ignored; an Oak Set or Clear of a semaphore writes Sem, clears OIS and raises AIS as Table 9 says; the
registers of the codec and of the emulation module take the word, but for their reserved bits (log 36) and the read-only
CODSTS, CODRX and PFT, which ignore it; STATUS1 stores ERR and MVD (log 24); a word for CODTX is appended, two halves
making an entry when DWS is set, the high one first (log 5), and one that meets a full FIFO only sets TOV (log 15); an
unmapped address faults, as UNMAPPED_DATA has its default (log 4, log 5). Table 9 taken by the operation and not by the
change of Sem (R524), the six bits of PABCx (R502), the bit that tells semaphores from mailbox (R521) and the ignored
writes of read-only registers (R531) are inferences of the spec (log 42); the aliases are mapped by the model's choice
(log 28); STATUS0 stores the word written by decision D26 (log 32). A write of MODE0 at MODE0 = 0 breaks nothing, as the
emulation module judges an access by the state before it (log 14). That it watches nothing inside the routine is an
inference of the spec (R503, log 42). A word for CODTX with DWS = 0 leaves a waiting half as it is (log 25). -/
def Obligations.DataWrites : Prop :=
  ∀ (a v : Word) (s : State),
    (dataRegion a = .unmapped → dataWrite a v s = .fault .unmappedData) ∧
    (dataRegion a ≠ .unmapped → Gives (dataWrite a v s) fun u =>
      SameRegsBut [] s u ∧ u.pc = s.pc ∧ u.fl = s.fl ∧ SameCore s u ∧
        (∀ k, k ≠ 2 * (cellOf a).toNat → k ≠ 2 * (cellOf a).toNat + 1 → memByte u.data k = memByte s.data k) ∧
        (∀ k, memByte u.prog k = memByte s.prog k) ∧
        (dataRegion a ≠ .ram → dataRegion a ≠ .mailbox → u.data = s.data)) ∧
    (Memory.wf s.data = true → dataRegion a = .ram → Gives (dataWrite a v s) fun u => memWord u.data a = v ∧
      (s.ocem.mode0 = 0 → u = { s with data := u.data })) ∧
    (s.ocem.mode0 = 0 ∨ s.ctl.inTrap = true →
      (Memory.wf s.data = true → dataRegion a = .mailbox →
        Gives (dataWrite a v s) fun u => u = { s with data := u.data } ∧
          (if oakOwns s.dpmb (a.extractLsb' 0 8) then memWord u.data (cellOf a) = v else u = s)) ∧
      (dataRegion a = .semaphore →
        Gives (dataWrite a v s) fun u =>
          u = { s with dpmb := { s.dpmb with sem := u.dpmb.sem, ois := u.dpmb.ois, ais := u.dpmb.ais } } ∧
          (let k := a.toNat % 8
           u.dpmb.sem.getLsbD k = v.getLsbD 0 ∧ u.dpmb.ois.getLsbD k = false ∧
            (u.dpmb.ais.getLsbD k = true ↔ s.dpmb.ais.getLsbD k = true ∨
              (s.dpmb.aie.getLsbD k = true ∧ s.dpmb.ato.getLsbD k = !v.getLsbD 0)) ∧
            ∀ j, j ≠ k → u.dpmb.sem.getLsbD j = s.dpmb.sem.getLsbD j ∧
              u.dpmb.ois.getLsbD j = s.dpmb.ois.getLsbD j ∧ u.dpmb.ais.getLsbD j = s.dpmb.ais.getLsbD j)) ∧
      (∀ p ∈ [(0xEC00#16, { s.codec with cnt := v &&& 0x3FFF#16 }), (0xEC02#16, { s.codec with frm := v }),
          (0xEC04#16, { s.codec with sck := v }), (0xEC06#16, s.codec), (0xEC0A#16, s.codec)],
        dataWrite p.1 v s = .next { s with codec := p.2 }) ∧
      (let n := s.codec.txFifo.length
       let joined := fun (e : Nat) => { s.codec with
         txFifo := s.codec.txFifo ++ [BitVec.ofNat 32 e],
         sts := if n + 1 = Config.codecFifoDepth then s.codec.sts ||| 2#7 else s.codec.sts }
       (Config.codecFifoDepth ≤ n →
          dataWrite 0xEC08 v s = .next { s with codec := { s.codec with sts := s.codec.sts ||| 0x20#7 } }) ∧
        (n < Config.codecFifoDepth →
          (s.codec.sck.getLsbD 11 = false → dataWrite 0xEC08 v s = .next { s with codec := joined v.toNat }) ∧
          (s.codec.sck.getLsbD 11 = true → s.codec.txHalf = none →
            dataWrite 0xEC08 v s = .next { s with codec := { s.codec with txHalf := some v } }) ∧
          (∀ h, s.codec.sck.getLsbD 11 = true → s.codec.txHalf = some h →
            dataWrite 0xEC08 v s =
              .next { s with codec := { joined (h.toNat * 65536 + v.toNat) with txHalf := none } }))) ∧
      (∀ p ∈ [(0xF7FF#16, { s.ocem with status0 := v &&& 0xF8FF#16 }),
          (0xF7FE#16, { s.ocem with err := v.getLsbD 13, mvd := v.getLsbD 12 }), (0xF7FD#16, { s.ocem with mode0 := v }),
          (0xF7FB#16, { s.ocem with dabp := v }), (0xF7FA#16, { s.ocem with dam := v }),
          (0xF7F9#16, { s.ocem with pabc3 := BitVec.ofNat 6 v.toNat }), (0xF7F8#16, { s.ocem with pabc2 := BitVec.ofNat 6 v.toNat }),
          (0xF7F7#16, { s.ocem with pabc1 := BitVec.ofNat 6 v.toNat }), (0xF7F3#16, { s.ocem with pabp3 := v }),
          (0xF7F2#16, { s.ocem with pabp2 := v }), (0xF7F1#16, { s.ocem with pabp1 := v }), (0xF7F0#16, s.ocem)],
        dataWrite p.1 v s = .next { s with ocem := p.2 }))

/-- Post-modification of rN (R99 to R102). Outside modulo mode: nothing, plus 1, minus 1, or plus the 7-bit step of the
group's configuration register. In modulo mode M = MOD + |q|, and k is the number with 2^k = M when M is a power of two,
else the least one with 2^k > MOD. The bits above k stay; the low bits go from MOD to 0 on a forward step, from 0 to MOD
on a backward step, and move by the step inside k bits otherwise. That is stated under the constraints of R102: a step
that is not 0 and, when M is no power of two, M and the low bits of the pointer at multiples of the step, the pointer
inside the buffer; outside them the new rN is open (log 8), and only the frame is stated. MOD = 0 leaves rN as it is. No
other register, no flag and no byte of memory changes. That M is MOD + |q| is the spec's inference from the constraints
(R101, log 42). -/
def Obligations.PostModification : Prop :=
  (∀ (n : RN) (m : PostMod) (s : State) (dmod : Bool), moduloOn n s = false ∨ dmod = true →
      let cfg := if n = .r4 ∨ n = .r5 then s.regs.cfgj else s.regs.cfgi
      getRN n (postMod n m dmod s) = (match m with
        | .keep => getRN n s
        | .inc => BitVec.ofNat 16 ((getRN n s).toNat + 1)
        | .dec => BitVec.ofInt 16 ((getRN n s).toNat - 1)
        | .step => BitVec.ofInt 16 ((getRN n s).toNat + (cfg.extractLsb' 0 7).toInt)) ∧
        Keeps [.rn n] s s (postMod n m dmod s) ∧ (postMod n m dmod s).fl = s.fl) ∧
  (∀ (n : RN) (m : PostMod) (s : State), moduloOn n s = true → m ≠ .keep →
      let cfg := if n = .r4 ∨ n = .r5 then s.regs.cfgj else s.regs.cfgi
      let q : Int := match m with
        | .keep => 0
        | .inc => 1
        | .dec => -1
        | .step => (cfg.extractLsb' 0 7).toInt
      let mod := cfg.toNat / 128
      let M := mod + q.natAbs
      let old := (getRN n s).toNat
      let u := postMod n m false s
      let new := (getRN n u).toNat
      (mod = 0 → u = s) ∧
        (∀ k, mod ≠ 0 → q ≠ 0 →
          (2 ^ k = M ∨ ((∀ p, 2 ^ p ≠ M) ∧ mod < 2 ^ k ∧ (∀ p, mod < 2 ^ p → k ≤ p) ∧
            M % q.natAbs = 0 ∧ old % 2 ^ k % q.natAbs = 0 ∧ old % 2 ^ k ≤ mod)) →
          new / 2 ^ k = old / 2 ^ k ∧ mod < 2 ^ k ∧
            ((new % 2 ^ k : Nat) : Int) = (if 0 ≤ q ∧ old % 2 ^ k = mod then (0 : Int)
              else if q < 0 ∧ old % 2 ^ k = 0 then (mod : Int) else (((old % 2 ^ k : Nat) : Int) + q) % 2 ^ k) ∧
            Keeps [.rn n] s s u) ∧
        SameRegsBut [.rn n] s u ∧ u.fl = s.fl ∧ SameMemory s u)

/-! ## Status registers, the product, conditions -/

/-- A write of st0 replaces every field and a0[35:32]; a read gives it back. Of st1 bits 9 and 8 read as 0; of st2 the
bits 9 to 0 are written, bits 11 and 10 read the pins, bit 12 reads as 0, and bits 15 and 14 the request lines INT1 and
INT0 (R36, R48 to R56, R61, R172). That the reserved bits read as 0 is decision D3, the model's choice with it (log 32);
that IP0 is bit 14 follows R55 against a trace value (log 33). Bit 4 of st2 is M4 by C20, and IP0 and IP1 are live by
C25 (log 42). That INT0 is active when any OIS is set (R523), and INT1 when any enabled latch is (R538, log 25), are
inferences of the spec (log 42). -/
def Obligations.StatusRegisters : Prop :=
  ∀ (v : Word) (s : State),
    (readReg .st0 (writeReg .st0 v s)).1 = v ∧ (readReg .st1 (writeReg .st1 v s)).1 = v &&& 0xFCFF#16 ∧
      (let u := writeReg .st2 v s
       (readReg .st2 u).1 &&& 0x03FF#16 = v &&& 0x03FF#16 ∧ (readReg .st2 u).1.getLsbD 10 = s.iuser0 ∧
          (readReg .st2 u).1.getLsbD 11 = s.iuser1 ∧ (readReg .st2 u).1.getLsbD 12 = false ∧
          ((readReg .st2 u).1.getLsbD 14 = true ↔ s.dpmb.ois.toNat ≠ 0) ∧
          (readReg .st2 u).1.getLsbD 15 = int1Line s ∧ (readReg .st2 u).1.getLsbD 13 = false) ∧
      (readReg .st0 s).1.toNat / 2 ^ 12 = s.regs.a0.toNat / 2 ^ 32 ∧
      (readReg .st1 s).1.toNat / 2 ^ 12 = s.regs.a1.toNat / 2 ^ 32

/-- The 16- and 36-bit values a register supplies as an operand (R170, R174): a 16-bit register its bits, an accumulator
half its 16 bits unlimited, a0 and a1 36 bits, p the shifted product; for arithmetic 16-bit registers are sign-extended,
for logic zero-extended. Reading one that is no port changes nothing. That an accumulator half is read raw here is
decision D17, and that pc supplies the address of the next instruction, which exec is given in pc, is decision D16 (log
27, log 32). -/
def Obligations.RegisterOperands : Prop :=
  ∀ (r : Reg) (s : State),
    (extOfReg r = none → (readReg r s).2 = s) ∧
      (∀ q v, (q, v) ∈ [(Reg.r0, s.regs.r0), (.r1, s.regs.r1), (.r2, s.regs.r2), (.r3, s.regs.r3), (.r4, s.regs.r4),
        (.r5, s.regs.r5), (.rb, s.regs.rb), (.y, s.regs.y), (.sp, s.regs.sp), (.cfgi, s.regs.cfgi),
        (.cfgj, s.regs.cfgj), (.lc, s.regs.lc), (.sv, s.regs.sv), (.pc, s.pc)] → (readReg q s).1 = v) ∧
      (∀ a h, halfOfReg r = some (a, h) →
        (readReg r s).1.toNat = (if h = .lo then (getAcc a s).toNat % 2 ^ 16 else (getAcc a s).toNat / 2 ^ 16 % 2 ^ 16)) ∧
      (readWide .a0 s).1 = s.regs.a0 ∧ (readWide .a1 s).1 = s.regs.a1 ∧ (readWide .p s).1 = shiftedP s ∧
      (readWideLogic .a0 s).1 = s.regs.a0 ∧ (readWideLogic .a1 s).1 = s.regs.a1 ∧
      (readWideLogic .p s).1 = shiftedP s ∧
      (isWide r = false → (readWide r s).1 = BitVec.ofInt 36 (readReg r s).1.toInt ∧
        (readWideLogic r s).1 = BitVec.ofNat 36 (readReg r s).1.toNat ∧ (readWide r s).2 = (readReg r s).2 ∧
        (readWideLogic r s).2 = (readReg r s).2)

/-- A move from an accumulator half is limited when saturation is on and the accumulator does not fit 32 bits: to 7FFF
or 8000 for a high half, FFFF or 0000 for a low half, and L is set; otherwise the half is moved and L stays; the
accumulator does not change (R171). That overflow means that the accumulator does not fit 32 bits, bits 35 to 31 not all
equal, is the spec's own inference from R42 (R171, log 42); that only mov and push limit is decision D17 (log 32). -/
def Obligations.SaturationOnMoves : Prop :=
  ∀ (a : Acc) (h : Half) (s : State),
    let v := (getAcc a s).toInt
    let q := satRead a h s
    (s.md.sat = false → 2 ^ 31 ≤ v → q.1 = (if h = .hi then 0x7FFF else 0xFFFF) ∧ q.2.fl.l = true) ∧
      (s.md.sat = false → v < -2 ^ 31 → q.1 = (if h = .hi then 0x8000 else 0x0000) ∧ q.2.fl.l = true) ∧
      (s.md.sat = true ∨ (-2 ^ 31 ≤ v ∧ v < 2 ^ 31) → q.2 = s ∧
        q.1 = BitVec.ofInt 16 (if h = .hi then v / 2 ^ 16 else v)) ∧
      q.2 = { s with fl := { s.fl with l := q.2.fl.l } }

/-- The shifted product: p as a signed number, or unsigned after macuu, halved and rounded down, doubled or times four
as PS says, modulo 2^36; the aligned one is that number divided by 2^16 and rounded down (R186, R187). The hidden bit
p_unsigned, which says whether p is signed, is decision D14 (R24, log 32). That the right shift of an unsigned product
brings in a 0 is an inference of the spec (R186, log 42). -/
def Obligations.ShiftedProduct : Prop :=
  ∀ (s : State),
    let p : Int := if s.regs.pUnsigned then s.regs.p.toNat else s.regs.p.toInt
    (s.md.ps = 0 → shiftedP s = BitVec.ofInt 36 p) ∧ (s.md.ps = 1 → shiftedP s = BitVec.ofInt 36 (p / 2)) ∧
      (s.md.ps = 2 → shiftedP s = BitVec.ofInt 36 (p * 2)) ∧ (s.md.ps = 3 → shiftedP s = BitVec.ofInt 36 (p * 4)) ∧
      alignedShiftedP s = BitVec.ofInt 36 ((shiftedP s).toInt / 65536)

/-- The conditions on the flags and pins (R190), and that a conditional instruction whose condition is false changes
nothing (R191). -/
def Obligations.Conditions : Prop :=
  ∀ (s : State),
    (∀ cc, condHolds cc s = true ↔ (match cc with
      | .always => True
      | .eq => s.fl.z = true
      | .neq => s.fl.z = false
      | .gt => s.fl.m = false ∧ s.fl.z = false
      | .ge => s.fl.m = false
      | .lt => s.fl.m = true
      | .le => s.fl.m = true ∨ s.fl.z = true
      | .nn => s.fl.n = false
      | .c => s.fl.c = true
      | .v => s.fl.v = true
      | .e => s.fl.e = true
      | .l => s.fl.l = true
      | .nr => s.fl.r = false
      | .niu0 => s.iuser0 = false
      | .iu0 => s.iuser0 = true
      | .iu1 => s.iuser1 = true)) ∧
      (∀ cc a b addr o src dst ctx, condHolds cc s = false →
        ∀ i ∈ [Instr.shrA a cc, .shr4A a cc, .shlA a cc, .shl4A a cc, .rorA a cc, .rolA a cc, .clrA a cc, .notA a cc,
          .negA a cc, .rndA a cc, .pacrA a cc, .clrrA a cc, .incA a cc, .decA a cc, .copyA a cc, .shrB b cc, .shr4B b cc,
          .shlB b cc, .shl4B b cc, .rorB b cc, .rolB b cc, .clrB b cc, .shfc src dst cc, .br addr cc, .brr o cc,
          .call addr cc, .callr o cc, .ret cc, .reti cc ctx], exec i s = .next s)

/-! ## Addition, subtraction, comparison, logic -/

/-- add, addh, addl in all their forms: aX + operand with the carry and overflow of the exact sum. The operand is the
word sign-extended (add), times 2^16 (addh), or zero-extended (addl); the 8-bit immediate is unsigned (R201 to R203).
The formula of N is presumed from general knowledge (R39, R180, log 31). That R stays is the reading C19 against the
printed flag row, and that add has the direct form is the reading C29 (log 42). -/
def Obligations.AddForms : Prop :=
  ∀ (a : AccA) (s : State),
    let x := getAcc (accOfA a) s
    let plain := fun ch (v : Word) t u => Adds (accOfA a) x (BitVec.ofInt 36 v.toInt) ch s t u
    let high := fun ch (v : Word) t u => Adds (accOfA a) x (BitVec.ofInt 36 (v.toInt * 65536)) ch s t u
    let low := fun ch (v : Word) t u => Adds (accOfA a) x (BitVec.ofNat 36 v.toNat) ch s t u
    DirectForm (.addDirect a) s plain ∧ IndForm (.addInd a) s plain ∧ LongDirectForm (.addLongDirect a) s plain ∧
      RbShortForm (.addRbShort a) s plain ∧ RbLongForm (.addRbLong a) s plain ∧
      (∀ v, Gives (exec (.addLong a v) s) (plain [] v s)) ∧
      (∀ v, Gives (exec (.addShort a v) s) (Adds (accOfA a) x (BitVec.ofNat 36 v.toNat) [] s s)) ∧
      (∀ r, (Instr.addReg a r).wf = true →
        Gives (exec (.addReg a r) s) (Adds (accOfA a) x (readWide r s).1 [] s (readWide r s).2)) ∧
      DirectForm (.addhDirect a) s high ∧ IndForm (.addhInd a) s high ∧ RegForm (.addhReg a) s high ∧
      DirectForm (.addlDirect a) s low ∧ IndForm (.addlInd a) s low ∧ RegForm (.addlReg a) s low

/-- sub, subh, subl in all their forms: aX - operand with the borrow and overflow of the exact difference (R204 to R206).
That a0, a1 and p may be the source of sub is the spec's reading against the printed page (R204, C30). The formula of
N is presumed from general knowledge (R39, R180, log 31). -/
def Obligations.SubForms : Prop :=
  ∀ (a : AccA) (s : State),
    let x := getAcc (accOfA a) s
    let plain := fun ch (v : Word) t u => Subs (accOfA a) x (BitVec.ofInt 36 v.toInt) ch s t u
    let high := fun ch (v : Word) t u => Subs (accOfA a) x (BitVec.ofInt 36 (v.toInt * 65536)) ch s t u
    let low := fun ch (v : Word) t u => Subs (accOfA a) x (BitVec.ofNat 36 v.toNat) ch s t u
    DirectForm (.subDirect a) s plain ∧ IndForm (.subInd a) s plain ∧ LongDirectForm (.subLongDirect a) s plain ∧
      RbShortForm (.subRbShort a) s plain ∧ RbLongForm (.subRbLong a) s plain ∧
      (∀ v, Gives (exec (.subLong a v) s) (plain [] v s)) ∧
      (∀ v, Gives (exec (.subShort a v) s) (Subs (accOfA a) x (BitVec.ofNat 36 v.toNat) [] s s)) ∧
      (∀ r, (Instr.subReg a r).wf = true →
        Gives (exec (.subReg a r) s) (Subs (accOfA a) x (readWide r s).1 [] s (readWide r s).2)) ∧
      DirectForm (.subhDirect a) s high ∧ IndForm (.subhInd a) s high ∧ RegForm (.subhReg a) s high ∧
      DirectForm (.sublDirect a) s low ∧ IndForm (.sublInd a) s low ∧ RegForm (.sublReg a) s low

/-- cmp and cmpu in all their forms: the flags of aX - operand, no accumulator written (R207, R208). The formula of N is
presumed from general knowledge (R39, R180, log 31). -/
def Obligations.CompareForms : Prop :=
  ∀ (a : AccA) (s : State),
    let x := getAcc (accOfA a) s
    let plain := fun ch (v : Word) t u => Compares x (BitVec.ofInt 36 v.toInt) ch s t u
    let low := fun ch (v : Word) t u => Compares x (BitVec.ofNat 36 v.toNat) ch s t u
    DirectForm (.cmpDirect a) s plain ∧ IndForm (.cmpInd a) s plain ∧ LongDirectForm (.cmpLongDirect a) s plain ∧
      RbShortForm (.cmpRbShort a) s plain ∧ RbLongForm (.cmpRbLong a) s plain ∧
      (∀ v, Gives (exec (.cmpLong a v) s) (plain [] v s)) ∧
      (∀ v, Gives (exec (.cmpShort a v) s) (Compares x (BitVec.ofNat 36 v.toNat) [] s s)) ∧
      (∀ r, (Instr.cmpReg a r).wf = true →
        Gives (exec (.cmpReg a r) s) (Compares x (readWide r s).1 [] s (readWide r s).2)) ∧
      DirectForm (.cmpuDirect a) s low ∧ IndForm (.cmpuInd a) s low ∧ RegForm (.cmpuReg a) s low

/-- or, xor and and in all their forms (R209 to R211). or and xor: 36 bits with the zero-extended operand, flags Z, M,
N, E of the result. and: with a 16-bit operand aX[35:16] is cleared; with the 8-bit immediate aX[15:8] stays, aX[35:16]
is cleared and the flags are those of the 8-bit result; with an accumulator or p all 36 bits take part. The flags of and
with an immediate are decision D19 (log 32). The formula of N is presumed from general knowledge (R39, R180, log 31).
That the immediate and memory forms of xor extend by zeros as the register form does is an inference of the spec (R211,
log 42). -/
def Obligations.LogicForms : Prop :=
  (∀ (a : AccA) (s : State),
      let x := getAcc (accOfA a) s
      let o := fun ch (v : Word) t u =>
        Logic (accOfA a) (x ||| BitVec.ofNat 36 v.toNat) (x ||| BitVec.ofNat 36 v.toNat) ch s t u
      let e := fun ch (v : Word) t u =>
        Logic (accOfA a) (x ^^^ BitVec.ofNat 36 v.toNat) (x ^^^ BitVec.ofNat 36 v.toNat) ch s t u
      DirectForm (.orDirect a) s o ∧ IndForm (.orInd a) s o ∧ LongDirectForm (.orLongDirect a) s o ∧
        RbShortForm (.orRbShort a) s o ∧ RbLongForm (.orRbLong a) s o ∧
        (∀ v, Gives (exec (.orLong a v) s) (o [] v s)) ∧
        (∀ v, Gives (exec (.orShort a v) s) (o [] (BitVec.ofNat 16 v.toNat) s)) ∧
        (∀ r, (Instr.orReg a r).wf = true → Gives (exec (.orReg a r) s)
          (Logic (accOfA a) (x ||| (readWideLogic r s).1) (x ||| (readWideLogic r s).1) [] s (readWideLogic r s).2)) ∧
        DirectForm (.xorDirect a) s e ∧ IndForm (.xorInd a) s e ∧ LongDirectForm (.xorLongDirect a) s e ∧
        RbShortForm (.xorRbShort a) s e ∧ RbLongForm (.xorRbLong a) s e ∧
        (∀ v, Gives (exec (.xorLong a v) s) (e [] v s)) ∧
        (∀ v, Gives (exec (.xorShort a v) s) (e [] (BitVec.ofNat 16 v.toNat) s)) ∧
        (∀ r, (Instr.xorReg a r).wf = true → Gives (exec (.xorReg a r) s)
          (Logic (accOfA a) (x ^^^ (readWideLogic r s).1) (x ^^^ (readWideLogic r s).1) [] s (readWideLogic r s).2))) ∧
  (∀ (a : AccA) (s : State),
      let x := getAcc (accOfA a) s
      let r16 := fun (v : Word) => BitVec.ofNat 36 (x.toNat % 65536 &&& v.toNat)
      let n := fun ch (v : Word) t u => Logic (accOfA a) (r16 v) (r16 v) ch s t u
      DirectForm (.andDirect a) s n ∧ IndForm (.andInd a) s n ∧ LongDirectForm (.andLongDirect a) s n ∧
        RbShortForm (.andRbShort a) s n ∧ RbLongForm (.andRbLong a) s n ∧
        (∀ v, Gives (exec (.andLong a v) s) (n [] v s)) ∧
        (∀ v, Gives (exec (.andShort a v) s)
          (Logic (accOfA a) (BitVec.ofNat 36 (x.toNat / 256 % 256 * 256 + (x.toNat % 256 &&& v.toNat)))
            (BitVec.ofNat 36 (x.toNat % 256 &&& v.toNat)) [] s s)) ∧
        (∀ r, (Instr.andReg a r).wf = true → isWide r = false →
          Gives (exec (.andReg a r) s) (n [] (readReg r s).1 (readReg r s).2)) ∧
        (∀ r, (Instr.andReg a r).wf = true → isWide r = true → Gives (exec (.andReg a r) s)
          (Logic (accOfA a) (x &&& (readWideLogic r s).1) (x &&& (readWideLogic r s).1) [] s s)))

/-- An instruction whose operands its page excludes is refused by name, whatever the state (R575, U6, U8); the same
accumulator as source and destination is one such case for the ALU instructions (R176). That a half of the destination
accumulator counts as the same accumulator is R176's own inference (log 42). -/
def Obligations.ExcludedOperandsRefused : Prop :=
  ∀ (i : Instr) (s : State),
    (i.wf = false → exec i s = .refused .excludedOperand ∨ exec i s = .refused .sameAccumulator) ∧
      (∀ (a : AccA) (r : Reg), accAOfReg r = some (accOfA a) →
        ∀ j ∈ [Instr.addReg a r, .subReg a r, .cmpReg a r, .andReg a r, .orReg a r, .xorReg a r, .movrReg r a],
          exec j s = .refused .sameAccumulator) ∧
      (∀ (a : AccA) (r : Reg), r = .a0 ∨ r = .a1 ∨ r = .p →
        ∀ j ∈ [Instr.addhReg a r, .addlReg a r, .subhReg a r, .sublReg a r, .cmpuReg a r, .msuReg a r, .sqrReg r,
          .sqraReg a r, .mpyReg r, .macReg a r, .tst0AccReg a r, .pushReg r, .repReg r],
          exec j s = .refused .excludedOperand)

/-! ## Functions of one accumulator, shifts -/

/-- The shifts of moda and modb by 1 and 4 places either way, and ror and rol through the carry, when the condition holds
(R242, R244 to R249, R261 to R266); a rotate keeps V, L and R in both shift modes. C and V of shl4 are the spec's
reading (R241, C32). The formula of N is presumed from general knowledge (R39, R180, log 31). -/
def Obligations.ShiftsAndRotates : Prop :=
  (∀ (cc : Cond) (s : State), condHolds cc s = true →
      (∀ a, let x := getAcc (accOfA a) s
        Gives (exec (.shrA a cc) s) (ShiftsTo (accOfA a) x (-1) [] s s) ∧
          Gives (exec (.shr4A a cc) s) (ShiftsTo (accOfA a) x (-4) [] s s) ∧
          Gives (exec (.shlA a cc) s) (ShiftsTo (accOfA a) x 1 [] s s) ∧
          Gives (exec (.shl4A a cc) s) (ShiftsTo (accOfA a) x 4 [] s s)) ∧
        (∀ b, let x := getAcc (accOfB b) s
          Gives (exec (.shrB b cc) s) (ShiftsTo (accOfB b) x (-1) [] s s) ∧
            Gives (exec (.shr4B b cc) s) (ShiftsTo (accOfB b) x (-4) [] s s) ∧
            Gives (exec (.shlB b cc) s) (ShiftsTo (accOfB b) x 1 [] s s) ∧
            Gives (exec (.shl4B b cc) s) (ShiftsTo (accOfB b) x 4 [] s s))) ∧
  (∀ (cc : Cond) (s : State), condHolds cc s = true →
      let carry := if s.fl.c then 1 else 0
      let right := fun acc u => getAcc acc u = BitVec.ofNat 36 (carry * 2 ^ 35 + (getAcc acc s).toNat / 2) ∧
        (u.fl.c = true ↔ (getAcc acc s).toNat % 2 = 1) ∧ ZMEN (getAcc acc u) u.fl ∧ u.fl.v = s.fl.v ∧ u.fl.l = s.fl.l ∧
        u.fl.r = s.fl.r ∧ Keeps [.acc acc] s s u
      let left := fun acc u => getAcc acc u = BitVec.ofNat 36 ((getAcc acc s).toNat * 2 + carry) ∧
        (u.fl.c = true ↔ 2 ^ 35 ≤ (getAcc acc s).toNat) ∧ ZMEN (getAcc acc u) u.fl ∧ u.fl.v = s.fl.v ∧
        u.fl.l = s.fl.l ∧ u.fl.r = s.fl.r ∧ Keeps [.acc acc] s s u
      (∀ a, Gives (exec (.rorA a cc) s) (right (accOfA a)) ∧ Gives (exec (.rolA a cc) s) (left (accOfA a))) ∧
        (∀ b, Gives (exec (.rorB b cc) s) (right (accOfB b)) ∧ Gives (exec (.rolB b cc) s) (left (accOfB b))))

/-- shfc, shfi, movs and movsi (R270 to R273): the source accumulator, or the sign-extended word, shifted by sv or by
the signed immediate. The flags in logical mode are the reading C27 of the pages (log 42). The formula of N is presumed
from general knowledge (R39, R180, log 31). shfi is read with its immediate in the place of sv (C34, log 42). -/
def Obligations.VariableShifts : Prop :=
  ∀ (dst : Acc) (s : State),
    let sv := s.regs.sv.toInt
    (∀ src cc, condHolds cc s = true → Gives (exec (.shfc src dst cc) s) (ShiftsBy dst (getAcc src s) sv [] s s)) ∧
      (∀ src (v : BitVec 6), Gives (exec (.shfi src dst v) s) (ShiftsTo dst (getAcc src s) v.toInt [] s s)) ∧
      DirectForm (fun d => .movsDirect d dst) s (fun ch v t u => ShiftsBy dst (BitVec.ofInt 36 v.toInt) sv ch s t u) ∧
      IndForm (fun n m => .movsInd n m dst) s (fun ch v t u => ShiftsBy dst (BitVec.ofInt 36 v.toInt) sv ch s t u) ∧
      RegForm (fun r => .movsReg r dst) s (fun ch v t u => ShiftsBy dst (BitVec.ofInt 36 v.toInt) sv ch s t u) ∧
      (∀ n (v : BitVec 5), Gives (exec (.movsi n dst v) s)
        (ShiftsTo dst (BitVec.ofInt 36 (readReg (regOfStar n) s).1.toInt) v.toInt [] s s))

/-- clr, not, clrr and copy, when the condition holds: the new value and Z, M, N, E of it (R250, R251, R255, R267);
copy keeps the value and sets the flags, the default of COPY_SOURCE (R258, D20, log 5). The formula of N is presumed
from general knowledge (R39, R180, log 31). -/
def Obligations.ClearComplementCopy : Prop :=
  ∀ (cc : Cond) (s : State), condHolds cc s = true →
    (∀ a, let x := getAcc (accOfA a) s
      Gives (exec (.clrA a cc) s) (Logic (accOfA a) 0 0 [] s s) ∧
        Gives (exec (.notA a cc) s)
          (Logic (accOfA a) (BitVec.ofInt 36 (-1 - x.toInt)) (BitVec.ofInt 36 (-1 - x.toInt)) [] s s) ∧
        Gives (exec (.clrrA a cc) s) (Logic (accOfA a) 0x8000 0x8000 [] s s) ∧
        Gives (exec (.copyA a cc) s) (Logic (accOfA a) x x [] s s)) ∧
      (∀ b, Gives (exec (.clrB b cc) s) (Logic (accOfB b) 0 0 [] s s))

/-- neg, rnd, pacr, inc, dec when the condition holds, and movr (R252 to R254, R256, R257, R382). The formula of N is
presumed from general knowledge (R39, R180, log 31). That C of neg is the borrow of 0 - aX is an inference of the spec
(R252, log 42). -/
def Obligations.NegateRoundStep : Prop :=
  ∀ (a : AccA) (s : State),
    let x := getAcc (accOfA a) s
    (∀ cc, condHolds cc s = true →
      Gives (exec (.negA a cc) s) (Subs (accOfA a) 0 x [] s s) ∧
        Gives (exec (.rndA a cc) s) (Adds (accOfA a) x 0x8000 [] s s) ∧
        Gives (exec (.pacrA a cc) s) (Adds (accOfA a) (shiftedP s) 0x8000 [] s s) ∧
        Gives (exec (.incA a cc) s) (Adds (accOfA a) x 1 [] s s) ∧
        Gives (exec (.decA a cc) s) (Subs (accOfA a) x 1 [] s s)) ∧
      (∀ r, (Instr.movrReg r a).wf = true → Gives (exec (.movrReg r a) s)
        (Adds (accOfA a) (readWide r s).1 0x8000 [] s (readWide r s).2)) ∧
      IndForm (fun n m => .movrInd n m a) s
        (fun ch v t u => Adds (accOfA a) (BitVec.ofInt 36 v.toInt) 0x8000 ch s t u)

/-- exp in all its forms (R275): sv takes the exponent e of the operand, -4 to 31: the operand fits in 31 - e bits and a
sign, and, below 31, not in one bit less; the accumulator form writes e to aX too; no flag changes. A 16-bit operand
stands in bits 31 to 16. -/
def Obligations.Exponents : Prop :=
  ∀ (s : State),
    let isExp := fun (v e : Int) => -4 ≤ e ∧ e ≤ 31 ∧
      -(2 ^ (31 - e).toNat) ≤ v ∧ v < 2 ^ (31 - e).toNat ∧
      (e = 31 ∨ ¬(-(2 ^ (30 - e).toNat) ≤ v ∧ v < 2 ^ (30 - e).toNat))
    let takes := fun (dst : Option AccA) (v : Int) ch (t u : State) => isExp v u.regs.sv.toInt ∧ u.fl = s.fl ∧
      (match dst with
        | none => Keeps (.sv :: ch) s t u
        | some a => getAcc (accOfA a) u = BitVec.ofInt 36 u.regs.sv.toInt ∧ Keeps (.sv :: .acc (accOfA a) :: ch) s t u)
    ∀ dst : Option AccA,
      IndForm (fun n m => .expInd n m dst) s (fun ch v t u => takes dst (v.toInt * 65536) ch t u) ∧
        (∀ b, Gives (exec (.expAcc b dst) s) (takes dst (getAcc (accOfB b) s).toInt [] s)) ∧
        Gives (exec (.expReg .a0 dst) s) (takes dst s.regs.a0.toInt [] s) ∧
        Gives (exec (.expReg .a1 dst) s) (takes dst s.regs.a1.toInt [] s) ∧
        (∀ r, (Instr.expReg r dst).wf = true → isWide r = false →
          Gives (exec (.expReg r dst) s) (takes dst ((readReg r s).1.toInt * 65536) [] (readReg r s).2))

/-- norm: nothing when N is 1; else aX doubled with the flags of an arithmetic shift by one, rN modified, and R set when
rN has become 0 (R276). divs: the divisor times 2^15 is subtracted; a negative difference doubles aX, another doubles
the difference and adds one (R214). The flags of an arithmetic shift for norm, whatever S is, are an inference of the
spec (R276, log 42). The formula of N is presumed from general knowledge (R39, R180, log 31). That divs extends the
divisor by its sign for every word is the spec's own reading (R214, log 42). -/
def Obligations.NormalizeDivideSteps : Prop :=
  (∀ (a : AccA) (n : RN) (m : PostMod) (s : State),
      let x := getAcc (accOfA a) s
      (s.fl.n = true → exec (.norm a n m) s = .next s) ∧
        (s.fl.n = false → Gives (exec (.norm a n m) s) fun u =>
          getAcc (accOfA a) u = BitVec.ofInt 36 (x.toInt * 2) ∧
            ArithFlags (getAcc (accOfA a) u) (x.toInt * 2) (2 ^ 35 ≤ x.toNat) s.fl { u.fl with r := s.fl.r } ∧
            getRN n u = getRN n (postMod n m false s) ∧ (u.fl.r = true ↔ (getRN n u).toNat = 0) ∧
            Keeps [.acc (accOfA a), .rn n] s (postMod n m false s) u)) ∧
  (∀ (a : AccA) (s : State),
      let x := getAcc (accOfA a) s
      DirectForm (.divs a) s fun ch v t u =>
        let d : Acc36 := BitVec.ofInt 36 (x.toInt - v.toInt * 2 ^ 15)
        let r : Acc36 := BitVec.ofInt 36 (if d.toInt < 0 then x.toInt * 2 else d.toInt * 2 + 1)
        Logic (accOfA a) r r ch s t u)

/-- max, maxd and min (R232 to R234): when the other accumulator, or the word at r0, is the new extremum, aX takes it,
mixp takes r0 and M is set, else M is cleared; r0 is post-modified; no other flag changes. lim: the source limited to
32 bits goes to the destination; Z, M, N describe it, E is cleared, L is set when it differs from the source (R185,
R215). The direction of max and min is the spec's reading against the printed lines (R232, R234, C31). The formula of
N is presumed from general knowledge (R39, R180, log 31). -/
def Obligations.ExtremaLimits : Prop :=
  (∀ (a : AccA) (strict : Bool) (m : PostMod) (s : State),
      let x := getAcc (accOfA a) s
      let other := match a with
        | .a0 => s.regs.a1
        | .a1 => s.regs.a0
      let takes := fun (won : Prop) (v : Acc36) (t u : State) =>
        (won → getAcc (accOfA a) u = v ∧ u.regs.mixp = s.regs.r0 ∧ u.fl = { s.fl with m := true }) ∧
          (¬won → getAcc (accOfA a) u = x ∧ u.regs.mixp = s.regs.mixp ∧ u.fl = { s.fl with m := false }) ∧
          u.regs.r0 = (postMod .r0 m false t).regs.r0 ∧
          Keeps [.acc (accOfA a), .mixp, .rn .r0] s (postMod .r0 m false t) u
      Gives (exec (.max a strict m) s)
          (takes (if strict then x.toInt < other.toInt else x.toInt ≤ other.toInt) other s) ∧
        Gives (exec (.min a strict m) s)
          (takes (if strict then other.toInt < x.toInt else other.toInt ≤ x.toInt) other s) ∧
        (∀ (v : Word) t, Reads s.regs.r0 s v t → Gives (exec (.maxd a strict m) s)
          (takes (if strict then x.toInt < v.toInt else x.toInt ≤ v.toInt) (BitVec.ofInt 36 v.toInt) t))) ∧
  (∀ (src dst : AccA) (s : State),
      let x := (getAcc (accOfA src) s).toInt
      Gives (exec (.lim src dst) s) fun u =>
        (getAcc (accOfA dst) u).toInt = max (-2 ^ 31) (min (2 ^ 31 - 1) x) ∧ ZMEN (getAcc (accOfA dst) u) u.fl ∧
          u.fl.e = false ∧ (u.fl.l = true ↔ s.fl.l = true ∨ x < -2 ^ 31 ∨ 2 ^ 31 ≤ x) ∧ u.fl.v = s.fl.v ∧
          u.fl.c = s.fl.c ∧ u.fl.r = s.fl.r ∧ Keeps [.acc (accOfA dst)] s s u)

/-! ## Multiplication -/

/-- mpy, mpysu, mpyi and sqr in all their forms: y and x are loaded and p takes their product; no flag changes (R290 to
R294, R302). That operand1 goes to y is the reading C36 of the pages (R291, log 42). The hidden bit p_unsigned, which
says whether p is signed, is decision D14 (R24, log 32). The A bit that mpy ignores is decision D15 (log 29). -/
def Obligations.MultiplyForms : Prop :=
  ∀ (s : State),
    let gives := fun (xs : Bool) ch (y x : Word) t (u : State) =>
      Product true xs y x u ∧ u.fl = s.fl ∧ Keeps (.y :: .x :: .p :: ch) s t u
    let y0 := s.regs.y
    DirectForm .mpyDirect s (fun ch v t u => gives true ch y0 v t u) ∧
      IndForm .mpyInd s (fun ch v t u => gives true ch y0 v t u) ∧
      RegForm .mpyReg s (fun ch v t u => gives true ch y0 v t u) ∧
      DualForm .mpyDual s (fun ch y x t u => gives true ch y x t u) ∧
      (∀ v, IndForm (fun n m => .mpyLong n m v) s (fun ch y t u => gives true ch y v t u)) ∧
      IndForm .mpysuInd s (fun ch v t u => gives false ch y0 v t u) ∧
      RegForm .mpysuReg s (fun ch v t u => gives false ch y0 v t u) ∧
      DualForm .mpysuDual s (fun ch y x t u => gives false ch y x t u) ∧
      (∀ v, IndForm (fun n m => .mpysuLong n m v) s (fun ch y t u => gives false ch y v t u)) ∧
      (∀ v, Gives (exec (.mpyi v) s) (gives true [] y0 (BitVec.ofInt 16 v.toInt) s)) ∧
      DirectForm .sqrDirect s (fun ch v t u => gives true ch v v t u) ∧
      IndForm .sqrInd s (fun ch v t u => gives true ch v v t u) ∧
      RegForm .sqrReg s (fun ch v t u => gives true ch v v t u)

/-- mac, macsu, macus and macuu in all their forms: aX plus the previous shifted product, with the flags of the
addition; then y, x and the new product (R295 to R298). The signs of macus are the reading C37 of the pages (R297, log
42). The hidden bit p_unsigned, which says whether p is signed, is decision D14 (R24, log 32). The formula of N is
presumed from general knowledge (R39, R180, log 31). That REG may be a half of the destination accumulator is the
model's choice (log 50). -/
def Obligations.MultiplyAccumulateForms : Prop :=
  ∀ (a : AccA) (s : State),
    let x0 := getAcc (accOfA a) s
    let gives := fun (ys xs : Bool) ch (y x : Word) t (u : State) =>
      Product ys xs y x u ∧ Adds (accOfA a) x0 (shiftedP s) (.y :: .x :: .p :: ch) s t u
    let y0 := s.regs.y
    DirectForm (.macDirect a) s (fun ch v t u => gives true true ch y0 v t u) ∧
      IndForm (.macInd a) s (fun ch v t u => gives true true ch y0 v t u) ∧
      RegForm (.macReg a) s (fun ch v t u => gives true true ch y0 v t u) ∧
      DualForm (.macDual a) s (fun ch y x t u => gives true true ch y x t u) ∧
      (∀ v, IndForm (fun n m => .macLong a n m v) s (fun ch y t u => gives true true ch y v t u)) ∧
      DirectForm (.macsuDirect a) s (fun ch v t u => gives true false ch y0 v t u) ∧
      IndForm (.macsuInd a) s (fun ch v t u => gives true false ch y0 v t u) ∧
      RegForm (.macsuReg a) s (fun ch v t u => gives true false ch y0 v t u) ∧
      DualForm (.macsuDual a) s (fun ch y x t u => gives true false ch y x t u) ∧
      (∀ v, IndForm (fun n m => .macsuLong a n m v) s (fun ch y t u => gives true false ch y v t u)) ∧
      IndForm (.macusInd a) s (fun ch v t u => gives false true ch y0 v t u) ∧
      RegForm (.macusReg a) s (fun ch v t u => gives false true ch y0 v t u) ∧
      DualForm (.macusDual a) s (fun ch y x t u => gives false true ch y x t u) ∧
      (∀ v, IndForm (fun n m => .macusLong a n m v) s (fun ch y t u => gives false true ch y v t u)) ∧
      IndForm (.macuuInd a) s (fun ch v t u => gives false false ch y0 v t u) ∧
      RegForm (.macuuReg a) s (fun ch v t u => gives false false ch y0 v t u) ∧
      DualForm (.macuuDual a) s (fun ch y x t u => gives false false ch y x t u) ∧
      (∀ v, IndForm (fun n m => .macuuLong a n m v) s (fun ch y t u => gives false false ch y v t u))

/-- maa and maasu add the previous product aligned, msu subtracts it, sqra adds it and squares (R299 to R301, R303). The
order of the operands of msu is the reading C36 of the pages (R291, log 42). The hidden bit p_unsigned, which says
whether p is signed, is decision D14 (R24, log 32). The formula of N is presumed from general knowledge (R39, R180, log
31). That REG may be a half of the destination accumulator is the model's choice (log 50). -/
def Obligations.AlignedSubtractSquareForms : Prop :=
  ∀ (a : AccA) (s : State),
    let x0 := getAcc (accOfA a) s
    let aligned : Acc36 := BitVec.ofInt 36 ((shiftedP s).toInt / 65536)
    let maa := fun (xs : Bool) ch (y x : Word) t (u : State) =>
      Product true xs y x u ∧ Adds (accOfA a) x0 aligned (.y :: .x :: .p :: ch) s t u
    let msu := fun ch (y x : Word) t (u : State) =>
      Product true true y x u ∧ Subs (accOfA a) x0 (shiftedP s) (.y :: .x :: .p :: ch) s t u
    let sqra := fun ch (v : Word) t (u : State) =>
      Product true true v v u ∧ Adds (accOfA a) x0 (shiftedP s) (.y :: .x :: .p :: ch) s t u
    let y0 := s.regs.y
    DirectForm (.maaDirect a) s (fun ch v t u => maa true ch y0 v t u) ∧
      IndForm (.maaInd a) s (fun ch v t u => maa true ch y0 v t u) ∧
      RegForm (.maaReg a) s (fun ch v t u => maa true ch y0 v t u) ∧
      DualForm (.maaDual a) s (fun ch y x t u => maa true ch y x t u) ∧
      (∀ v, IndForm (fun n m => .maaLong a n m v) s (fun ch y t u => maa true ch y v t u)) ∧
      IndForm (.maasuInd a) s (fun ch v t u => maa false ch y0 v t u) ∧
      RegForm (.maasuReg a) s (fun ch v t u => maa false ch y0 v t u) ∧
      DualForm (.maasuDual a) s (fun ch y x t u => maa false ch y x t u) ∧
      (∀ v, IndForm (fun n m => .maasuLong a n m v) s (fun ch y t u => maa false ch y v t u)) ∧
      DirectForm (.msuDirect a) s (fun ch v t u => msu ch y0 v t u) ∧
      IndForm (.msuInd a) s (fun ch v t u => msu ch y0 v t u) ∧
      RegForm (.msuReg a) s (fun ch v t u => msu ch y0 v t u) ∧
      DualForm (.msuDual a) s (fun ch y x t u => msu ch y x t u) ∧
      (∀ v, IndForm (fun n m => .msuLong a n m v) s (fun ch y t u => msu ch y v t u)) ∧
      DirectForm (.sqraDirect a) s sqra ∧ IndForm (.sqraInd a) s sqra ∧ RegForm (.sqraReg a) s sqra

/-- The two operands of a dual access (R93): a Y word when rJ points into Y-RAM, an X word when rI points outside it;
both registers are post-modified. An operand outside its memory is some word, and the instruction goes on (U5, log 9).
That the Y word is the one at 0xF800 plus the low eleven bits of rJ is an inference of the spec (R93, log 42). The Y
word comes over YDB, so that it is never a data value match, which is one with the data on XDB (R66); that it is an
address match all the same, when DARE is set without CDVAE outside the TRAP/BI routine, is the model's choice (R509,
R510, log 49), the mask DAM having its default sense (D27, log 5). The X word is read as by any data read. -/
def Obligations.DualOperands : Prop :=
  ∀ (j : RJ) (k : RI) (m : PostMod) (s : State),
    let yp := getRN (rnOfJ j) s
    let xp := getRN (rnOfI k) s
    let ty := postMod (rnOfJ j) m false s
    let tx := postMod (rnOfI k) m false s
    let o := s.ocem
    let hit := s.ctl.inTrap = false ∧ o.mode0.getLsbD 4 = false ∧ o.mode0.getLsbD 3 = true ∧
      (yp ^^^ o.dabp) &&& ~~~o.dam = 0
    (0xF800 ≤ yp.toNat → Gives (readY j m s) fun q => q.1 = memWord s.data yp ∧
      q.2 = { ty with ocem := { o with status0 := q.2.ocem.status0, biData := q.2.ocem.biData } } ∧
      (∀ n, q.2.ocem.status0.getLsbD n = true ↔ o.status0.getLsbD n = true ∨ (n = 1 ∧ hit)) ∧
      (hit → o.biData = 0 → q.2.ocem.biData = 2) ∧ (¬hit ∨ o.biData ≠ 0 → q.2.ocem.biData = o.biData)) ∧
      (xp.toNat < 0xF800 → readX k m s = dataRead xp tx) ∧
      (yp.toNat < 0xF800 → Gives (readY j m s) fun q => q.2 = { ty with freeCount := ty.freeCount + 1 }) ∧
      (0xF800 ≤ xp.toNat → Gives (readX k m s) fun q => q.2 = { tx with freeCount := tx.freeCount + 1 })

/-! ## Bit fields -/

/-- set, rst, chng, addv, subv on a memory word (R320 to R326): the word at the address is read, replaced, and the flags
describe the 16-bit result; the addressing register is modified once; no other byte of memory changes. That addv and
subv compute on 16 bits is an inference of the spec (R321, log 42). -/
def Obligations.BitFieldMemory : Prop :=
  ∀ (imm : Word) (s : State),
    let ops : List ((BitVec 8 → Instr) × (RN → PostMod → Instr) × (Word → Word) × (Word → Prop)) :=
      [(fun d => .setDirect imm d, fun n m => .setInd imm n m, fun v => v ||| imm, fun _ => s.fl.c = true),
        (fun d => .rstDirect imm d, fun n m => .rstInd imm n m, fun v => v &&& ~~~imm, fun _ => s.fl.c = true),
        (fun d => .chngDirect imm d, fun n m => .chngInd imm n m, fun v => v ^^^ imm, fun _ => s.fl.c = true),
        (fun d => .addvDirect imm d, fun n m => .addvInd imm n m, fun v => BitVec.ofNat 16 (v.toNat + imm.toNat),
          fun v => 2 ^ 16 ≤ v.toNat + imm.toNat),
        (fun d => .subvDirect imm d, fun n m => .subvInd imm n m, fun v => BitVec.ofInt 16 (v.toNat - imm.toNat),
          fun v => v.toNat < imm.toNat)]
    ∀ op ∈ ops,
      (∀ d v t w, Reads (directAddr d s) s v t → dataWrite (directAddr d s) (op.2.2.1 v) t = .next w →
        Gives (exec (op.1 d) s) fun u => Flags16 (op.2.2.1 v) (op.2.2.2 v) s.fl u.fl ∧
          Stored (directAddr d s) (op.2.2.1 v) [] s s w { u with fl := s.fl }) ∧
      (∀ n m v t w, Reads (getRN n s) (postMod n m false s) v t → dataWrite (getRN n s) (op.2.2.1 v) t = .next w →
        Gives (exec (op.2.1 n m) s) fun u => Flags16 (op.2.2.1 v) (op.2.2.2 v) s.fl u.fl ∧
          getRN n u = getRN n (postMod n m false s) ∧
          Stored (getRN n s) (op.2.2.1 v) [.rn n] s s w { u with fl := s.fl })

/-- The same on a register (R320 to R326, R331): of an accumulator half only that half changes; st0 takes the result
with no other flag update; any other register is written as by WriteReg, and the flags describe the 16-bit result. That
addv and subv compute on 16 bits is an inference of the spec (R321, log 42). -/
def Obligations.BitFieldRegister : Prop :=
  ∀ (imm : Word) (r : Reg) (s : State),
    let v := (readReg r s).1
    let t := (readReg r s).2
    let ops : List (Instr × Word × Prop) :=
      [(.setReg imm r, v ||| imm, s.fl.c = true), (.rstReg imm r, v &&& ~~~imm, s.fl.c = true),
        (.chngReg imm r, v ^^^ imm, s.fl.c = true),
        (.addvReg imm r, BitVec.ofNat 16 (v.toNat + imm.toNat), 2 ^ 16 ≤ v.toNat + imm.toNat),
        (.subvReg imm r, BitVec.ofInt 16 (v.toNat - imm.toNat), v.toNat < imm.toNat)]
    ∀ op ∈ ops, op.1.wf = true →
      (r = .st0 → Gives (exec op.1 s) (RegTakes TakesOnly .st0 op.2.1 [] s s)) ∧
      (r ≠ .st0 → halfOfReg r = none → Gives (exec op.1 s) fun u => Flags16 op.2.1 op.2.2 s.fl u.fl ∧
        RegTakes TakesOnly r op.2.1 [] s t { u with fl := s.fl }) ∧
      (∀ a h, halfOfReg r = some (a, h) → Gives (exec op.1 s) fun u => Flags16 op.2.1 op.2.2 s.fl u.fl ∧
        (let old := (getAcc a s).toNat
         (getAcc a u).toNat = (if h = .lo then old / 2 ^ 16 * 2 ^ 16 + op.2.1.toNat
            else old / 2 ^ 32 * 2 ^ 32 + op.2.1.toNat * 2 ^ 16 + old % 2 ^ 16)) ∧
        Keeps [.acc a] s s u)

/-- tst0, tst1, tstb and cmpv in all their forms: only the flags the instruction names change (R327, R328, R330; the sense
of tst1 is the spec's by symmetry, R329, D18, log 31). -/
def Obligations.BitTests : Prop :=
  ∀ (s : State),
    let onlyZ := fun (p : Prop) ch t (u : State) => (u.fl.z = true ↔ p) ∧ u.fl = { s.fl with z := u.fl.z } ∧ Keeps ch s t u
    let zeros := fun (mask : Nat → Bool) ch (v : Word) t u =>
      onlyZ (∀ k < 16, mask k = true → v.getLsbD k = false) ch t u
    let ones := fun (mask : Nat → Bool) ch (v : Word) t u =>
      onlyZ (∀ k < 16, mask k = true → v.getLsbD k = true) ch t u
    let cmp := fun (imm : Word) ch (v : Word) t (u : State) =>
      Flags16 (BitVec.ofInt 16 (v.toNat - imm.toNat)) (v.toNat < imm.toNat) s.fl u.fl ∧ Keeps ch s t u
    (∀ a, let mask := fun k => (getAcc (accOfA a) s).getLsbD k
      DirectForm (.tst0AccDirect a) s (zeros mask) ∧ IndForm (.tst0AccInd a) s (zeros mask) ∧
        RegForm (.tst0AccReg a) s (zeros mask) ∧ DirectForm (.tst1AccDirect a) s (ones mask) ∧
        IndForm (.tst1AccInd a) s (ones mask) ∧ RegForm (.tst1AccReg a) s (ones mask)) ∧
      (∀ imm : Word,
        DirectForm (.tst0LongDirect imm) s (zeros imm.getLsbD) ∧ IndForm (.tst0LongInd imm) s (zeros imm.getLsbD) ∧
          RegForm (.tst0LongReg imm) s (zeros imm.getLsbD) ∧ DirectForm (.tst1LongDirect imm) s (ones imm.getLsbD) ∧
          IndForm (.tst1LongInd imm) s (ones imm.getLsbD) ∧ RegForm (.tst1LongReg imm) s (ones imm.getLsbD) ∧
          DirectForm (.cmpvDirect imm) s (cmp imm) ∧ IndForm (.cmpvInd imm) s (cmp imm) ∧
          RegForm (.cmpvReg imm) s (cmp imm)) ∧
      (∀ k : BitVec 4, let bit := fun ch (v : Word) t u => onlyZ (v.getLsbD k.toNat = true) ch t u
        DirectForm (fun d => .tstbDirect d k) s bit ∧ IndForm (fun n m => .tstbInd n m k) s bit ∧
          RegForm (fun r => .tstbReg r k) s bit)

/-! ## Moves -/

/-- The moves into a whole accumulator or a half of one: the new 36 bits, and Z, M, N of them (R340, R342, R343, R346,
R354 to R356, R358, R361, R363, R364, R367, R369 to R371, R378, R380). The row of flags is the reading C38 of the page
(log 42). A move of an accumulator to itself, which R342 lets a model treat as a move that sets the flags, is so treated
(log 42). The formula of N is presumed from general knowledge (R39, R180, log 31). That N of a load takes the E of the
same value, which stays itself, is an inference of the spec (R340, log 42). -/
def Obligations.AccumulatorLoads : Prop :=
  ∀ (s : State),
    let word := fun acc ch (v : Word) t u => MovesTo acc (BitVec.ofInt 36 v.toInt) ch s t u
    let low := fun acc ch (v : Word) t u => MovesTo acc (BitVec.ofNat 36 v.toNat) ch s t u
    let high := fun acc ch (v : Word) t u => MovesTo acc (BitVec.ofInt 36 (v.toInt * 65536)) ch s t u
    (∀ src dst, Gives (exec (.movAccAcc src dst) s) (MovesTo dst (getAcc src s) [] s s)) ∧
      (∀ b r, (Instr.movRegB r b).wf = true →
        Gives (exec (.movRegB r b) s) (word (accOfB b) [] (readRegSat r s).1 (readRegSat r s).2)) ∧
      (∀ acc, Gives (exec (.movSpecAcc .repc acc) s) (word acc [] s.regs.repc s) ∧
        Gives (exec (.movSpecAcc .dvm acc) s) (word acc [] s.regs.dvm s) ∧
        Gives (exec (.movSpecAcc .x acc) s) (word acc [] s.regs.x s) ∧
        Gives (exec (.movIcrAcc acc) s) (MovesTo acc (BitVec.ofNat 36 (s.ctl.bc.toNat * 32 +
          s.ctl.lp.toNat * 16 + s.md.ic2.toNat * 8 + s.md.ic1.toNat * 4 + s.md.ic0.toNat * 2 + s.md.nmic.toNat)) [] s s) ∧
        DirectForm (fun d => .movDirectAcc d acc) s (word acc) ∧
        DirectForm (fun d => .movDirectHalf d acc .lo) s (low acc) ∧
        DirectForm (fun d => .movDirectHalf d acc .hi) s (high acc)) ∧
      (∀ b, IndForm (fun n m => .movIndB n m b) s (word (accOfB b)) ∧
        (∀ v, Gives (exec (.movLongB v b) s) (word (accOfB b) [] v s))) ∧
      (∀ a, LongDirectForm (fun addr => .movLongDirectA addr a) s (word (accOfA a)) ∧
        RbShortForm (fun o => .movRbShortA o a) s (word (accOfA a)) ∧
        RbLongForm (fun o => .movRbLongA o a) s (word (accOfA a)) ∧
        DirectForm (fun d => .movDirectHighEu d a) s (fun ch v t u => MovesTo (accOfA a)
          (BitVec.ofNat 36 ((getAcc (accOfA a) s).toNat / 2 ^ 32 * 2 ^ 32 + v.toNat * 2 ^ 16)) ch s t u) ∧
        (∀ v : BitVec 8, Gives (exec (.movShortHalf v a .lo) s) (low (accOfA a) [] (BitVec.ofNat 16 v.toNat) s) ∧
          Gives (exec (.movShortHalf v a .hi) s) (high (accOfA a) [] (BitVec.ofInt 16 v.toInt) s)))

/-- The moves into a register of class REG: mov REG, REG; mov mixp, REG; mov (rN), REG; mov (sp), REG; mov ##long, REG;
mov p, aX (R172, R340, R341, R345, R347, R349, R368). The row of flags of a load is the reading C38 of the page (log
42). The formula of N is presumed from general knowledge (R39, R180, log 31). That N of a load takes the E of the same
value, and that a written st0 wins over the L of the limiter, are inferences of the spec (R340, log 42). -/
def Obligations.RegisterMoves : Prop :=
  ∀ (r : Reg) (s : State),
    (∀ q, (Instr.movRegReg q r).wf = true → q ≠ .p → Gives (exec (.movRegReg q r) s)
        (RegTakes MovesTo r (readRegSat q s).1 [] s (readRegSat q s).2)) ∧
      Gives (exec (.movRegReg .p .a0) s) (MovesTo .a0 (shiftedP s) [] s s) ∧
      Gives (exec (.movRegReg .p .a1) s) (MovesTo .a1 (shiftedP s) [] s s) ∧
      Gives (exec (.movMixpReg r) s) (RegTakes MovesTo r s.regs.mixp [] s s) ∧
      (∀ v, Gives (exec (.movLongReg v r) s) (RegTakes MovesTo r v [] s s)) ∧
      (∀ v t, Reads s.regs.sp s v t → Gives (exec (.movSpReg r) s) (RegTakes MovesTo r v [] s t)) ∧
      (∀ n m v t, (Instr.movIndReg n m r).wf = true → Reads (getRN n s) (postMod n m false s) v t →
        Gives (exec (.movIndReg n m r) s) fun u => RegTakes MovesTo r v [.rn n] s t u ∧
          (r ≠ regOfRN n → getRN n u = getRN n (postMod n m false s)))

/-- The moves into single registers and ports: rN, rb, y and sv from a direct address or a signed 8-bit immediate, extX
from such an immediate, mixp from a register, dvm and x from the low half of an accumulator (R348, R353, R357, R360,
R362, R372 to R374). The register printed b is rb by C41 (log 42). -/
def Obligations.SingleRegisterMoves : Prop :=
  ∀ (s : State),
    (∀ n, DirectForm (fun d => .movDirectRn d n) s (fun ch v t u => RegTakes MovesTo (regOfStar n) v ch s t u) ∧
      ∀ v : BitVec 8, Gives (exec (.movShortRn v n) s)
        (RegTakes MovesTo (regOfStar n) (BitVec.ofInt 16 v.toInt) [] s s)) ∧
      DirectForm .movDirectSv s (fun ch v t u => PlaceTakes .sv v ch s t u) ∧
      (∀ v : BitVec 8, Gives (exec (.movShortSv v) s) (PlaceTakes .sv (BitVec.ofInt 16 v.toInt) [] s s)) ∧
      (∀ (v : BitVec 8) k, Gives (exec (.movShortExt v k) s) (RegTakes.PortTakes k (BitVec.ofInt 16 v.toInt) s)) ∧
      (∀ r, (Instr.movRegMixp r).wf = true → Gives (exec (.movRegMixp r) s)
        (PlaceTakes .mixp (readRegSat r s).1 [] s (readRegSat r s).2)) ∧
      (∀ acc, let q := satRead acc .lo s
        Gives (exec (.movAccDvm acc) s) (PlaceTakes .dvm q.1 [] s q.2) ∧
          Gives (exec (.movAccX acc) s) (PlaceTakes .x q.1 [] s q.2))

/-- The moves into memory (R344, R350 to R352, R359, R379, R381): the word stored, the address it is stored at, and that
nothing else in memory and no register but the addressing one changes; an accumulator half goes through the limiter of
R171, which may set L. What overflow means to the limiter is R171's own inference (log 42), and that only mov and push
limit is decision D17 (log 32). -/
def Obligations.Stores : Prop :=
  ∀ (s : State),
    (∀ r n m w, (Instr.movRegInd r n m).wf = true →
      let t := (readRegSat r s).2
      let v := (readRegSat r s).1
      dataWrite (getRN n s) v (postMod n m false t) = .next w →
        Gives (exec (.movRegInd r n m) s) fun u => Stored (getRN n s) v [.rn n] s t w u ∧
          getRN n u = getRN n (postMod n m false t)) ∧
      (∀ n d w, let v := (readReg (regOfStar n) s).1
        dataWrite (directAddr d s) v s = .next w →
          Gives (exec (.movRnDirect n d) s) (Stored (directAddr d s) v [] s s w)) ∧
      (∀ d w, dataWrite (directAddr d s) s.regs.sv s = .next w →
        Gives (exec (.movSvDirect d) s) (Stored (directAddr d s) s.regs.sv [] s s w)) ∧
      (∀ acc h d w, let q := satRead acc h s
        dataWrite (directAddr d s) q.1 q.2 = .next w →
          Gives (exec (.movHalfDirect acc h d) s) (Stored (directAddr d s) q.1 [] s q.2 w)) ∧
      (∀ a addr w, let q := satRead (accOfA a) .lo s
        (dataWrite addr q.1 q.2 = .next w →
          Gives (exec (.movALongDirect a addr) s) (Stored addr q.1 [] s q.2 w)) ∧
        (∀ o, addr = BitVec.ofInt 16 (s.regs.rb.toInt + o.toInt) → dataWrite addr q.1 q.2 = .next w →
          Gives (exec (.movARbShort a o) s) (Stored addr q.1 [] s q.2 w)) ∧
        (∀ o, addr = BitVec.ofNat 16 (s.regs.rb.toNat + o.toNat) → dataWrite addr q.1 q.2 = .next w →
          Gives (exec (.movARbLong a o) s) (Stored addr q.1 [] s q.2 w)))

/-- A write of icr (R64, R65, R365, R366, R426): NMIC, IC0, IC1, IC2 take bits 0 to 3; bit 4 ends all block-repeat levels,
at once, or, from one of the last three addresses of the running body, after the next loop-end test of that body's
level (log 23); without bit 4 the loop state stays. The other bits of the word have no effect, and no register
changes. -/
def Obligations.IcrWrites : Prop :=
  ∀ (s : State),
    let effect := fun (v : Word) (t u : State) =>
      u.md = { t.md with
        nmic := v.getLsbD 0, ic0 := v.getLsbD 1, ic1 := v.getLsbD 2, ic2 := v.getLsbD 3 } ∧
      (v.getLsbD 4 = false → u.ctl = t.ctl) ∧
      (v.getLsbD 4 = true →
        (if t.ctl.lp = true ∧ (t.ctl.bkEnd.toNat + 65536 - (s.pc - 1).toNat) % 65536 ≤ 2 then
          u.ctl = { t.ctl with lpClear := some t.ctl.bc }
        else u.ctl = { t.ctl with lp := false, bc := 0, bkSaved := [], lpClear := none })) ∧
      u = { t with md := u.md, ctl := u.ctl }
    (∀ r, (Instr.movRegIcr r).wf = true → Gives (exec (.movRegIcr r) s) (effect (readRegSat r s).1 (readRegSat r s).2)) ∧
      (∀ v : BitVec 5, Gives (exec (.movShortIcr v) s) (effect (BitVec.ofNat 16 v.toNat) s))

/-- push and pop (R96, R388 to R390): sp is decremented and the word stored there; the word at sp is read, sp
incremented and the register written; a pop into an accumulator half of ac sets Z, M, N, one of bc no flag. The flags of
pop are an inference of the spec, their row being lost (R390, log 42). The formula of N is presumed from general
knowledge (R39, R180, log 31). What overflow means to the limiter of push is R171's own inference (log 42), that only
mov and push limit is D17, and the value of pc as a source is D16 (log 32). -/
def Obligations.StackMoves : Prop :=
  ∀ (s : State),
    let low := s.regs.sp - 1
    (∀ r w, (Instr.pushReg r).wf = true →
      let v := (readRegSat r s).1
      let t := (readRegSat r s).2
      dataWrite low v { t with regs := { t.regs with sp := low } } = .next w →
        Gives (exec (.pushReg r) s) fun u => Stored low v [.sp] s t w u ∧ u.regs.sp = low) ∧
      (∀ v w, dataWrite low v { s with regs := { s.regs with sp := low } } = .next w →
        Gives (exec (.pushLong v) s) fun u => Stored low v [.sp] s s w u ∧ u.regs.sp = low) ∧
      (∀ r v t, (Instr.pop r).wf = true → Reads s.regs.sp s v t → Gives (exec (.pop r) s) fun u =>
        RegTakes PopsTo r v [.sp] s { t with regs := { t.regs with sp := s.regs.sp + 1 } } u ∧
          u.regs.sp = s.regs.sp + 1)

/-- The moves between the two spaces: movp reads the program word at aXl, or at rN into data memory at rI; movd writes a
data word to program memory at rJ, and MVD is set. They complete when the program address is below 0x6000 and the data
address has something behind it; else they fault, as UNMAPPED_PROG and UNMAPPED_DATA have their defaults (log 4, log 5).
movd at the two words of itself is refused (R97, R107, R375 to R377, R505, U14, log 16). That movp takes the raw low
half of aX is decision D17 (R375, log 32). The formula of N is presumed from general knowledge (R39, R180, log 31). That
the restriction of movd is on rJ is the reading C26 (log 42), and its window is decision D13 (log 32). -/
def Obligations.ProgramMemoryMoves : Prop :=
  ∀ (s : State),
    (∀ a r, let p := BitVec.ofNat 16 ((getAcc (accOfA a) s).toNat % 65536)
      (p.toNat < 0x6000 → Gives (exec (.movpAccReg a r) s) (RegTakes MovpsTo r (memWord s.prog p) [] s s)) ∧
        (0x6000 ≤ p.toNat → exec (.movpAccReg a r) s = .fault .unmappedProg)) ∧
      (∀ n m i mi, (Instr.movpIndInd n m i mi).wf = true →
        let from_ := getRN n s
        let to_ := getRN (rnOfI i) s
        let v := memWord s.prog from_
        let t := postMod (rnOfI i) mi false (postMod n m false s)
        (0x6000 ≤ from_.toNat → exec (.movpIndInd n m i mi) s = .fault .unmappedProg) ∧
          (from_.toNat < 0x6000 → dataRegion to_ = .unmapped → exec (.movpIndInd n m i mi) s = .fault .unmappedData) ∧
          (from_.toNat < 0x6000 → dataRegion to_ ≠ .unmapped →
            ∃ w u, dataWrite to_ v t = .next w ∧ exec (.movpIndInd n m i mi) s = .next u ∧
              Stored to_ v [.rn n, .rn (rnOfI i)] s s w u ∧ getRN n u = getRN n (postMod n m false s) ∧
              getRN (rnOfI i) u = getRN (rnOfI i) (postMod (rnOfI i) mi false (postMod n m false s)))) ∧
      (∀ i mi j mj, let pa := getRN (rnOfJ j) s
        let da := getRN (rnOfI i) s
        let t0 := postMod (rnOfJ j) mj false (postMod (rnOfI i) mi false s)
        (pa = s.pc - 1 ∨ pa = s.pc → exec (.movd i mi j mj) s = .refused .movdNearPc) ∧
          (pa ≠ s.pc - 1 → pa ≠ s.pc →
            (dataRegion da = .unmapped → exec (.movd i mi j mj) s = .fault .unmappedData) ∧
              (dataRegion da ≠ .unmapped → 0x6000 ≤ pa.toNat → exec (.movd i mi j mj) s = .fault .unmappedProg) ∧
              (dataRegion da ≠ .unmapped → pa.toNat < 0x6000 →
                ∃ v t u, Reads da t0 v t ∧ exec (.movd i mi j mj) s = .next u ∧
                  (Memory.wf s.prog = true → memWord u.prog pa = v) ∧ u.ocem.mvd = true ∧
                  (∀ k, k ≠ 2 * pa.toNat → k ≠ 2 * pa.toNat + 1 → memByte u.prog k = memByte s.prog k) ∧
                  u = { t with prog := u.prog, ocem := { t.ocem with mvd := true } } ∧
                  SameRegsBut [.rn (rnOfI i), .rn (rnOfJ j)] s u ∧ (∀ k, memByte u.data k = memByte s.data k) ∧
                  u.fl = s.fl ∧ SameCore s u ∧ u.pc = s.pc ∧ u.dpmb = s.dpmb ∧
                  getRN (rnOfI i) u = getRN (rnOfI i) t0 ∧ getRN (rnOfJ j) u = getRN (rnOfJ j) t0)))

/-- swap (R391): the new values of a0, a1, b0, b1 for each option, on the old ones, and Z, M, E, N of the a-accumulator
that receives data, of a0 when both do. The formula of N is presumed from general knowledge (R39, R180, log 31). The two
options that the table prints twice are those of the page (C16, log 42). -/
def Obligations.Swaps : Prop :=
  ∀ (opt : SwapOpt) (s : State),
    let a0 := s.regs.a0
    let a1 := s.regs.a1
    let b0 := s.regs.b0
    let b1 := s.regs.b1
    let new : (Acc36 × Acc36 × Acc36 × Acc36) × Acc := match opt with
      | .a0b0 => ((b0, a1, a0, b1), .a0)
      | .a0b1 => ((b1, a1, b0, a0), .a0)
      | .a1b0 => ((a0, b0, a1, b1), .a1)
      | .a1b1 => ((a0, b1, b0, a1), .a1)
      | .a0b0_a1b1 => ((b0, b1, a0, a1), .a0)
      | .a0b1_a1b0 => ((b1, b0, a1, a0), .a0)
      | .a0_b0_a1 => ((a0, b0, a0, b1), .a1)
      | .a0_b1_a1 => ((a0, b1, b0, a0), .a1)
      | .a1_b0_a0 => ((b0, a1, a1, b1), .a0)
      | .a1_b1_a0 => ((b1, a1, b0, a1), .a0)
      | .b0_a0_b1 => ((b0, a1, b0, a0), .a0)
      | .b0_a1_b1 => ((a0, b0, b0, a1), .a1)
      | .b1_a0_b0 => ((b1, a1, a0, b1), .a0)
      | .b1_a1_b0 => ((a0, b1, a1, b1), .a1)
    Gives (exec (.swap opt) s) fun u =>
      (u.regs.a0, u.regs.a1, u.regs.b0, u.regs.b1) = new.1 ∧ ZMEN (getAcc new.2 u) u.fl ∧ SameVCLR s.fl u.fl ∧
        Keeps [.acc .a0, .acc .a1, .acc .b0, .acc .b1] s s u

/-- banke, the loads of PAGE, MODx, STEPx and PS, and modr (R383 to R387, R392): the fields written, and that the
other bits of the register and every flag but R of modr stay. That modr without a modification reports whether rN is 0
is an inference of the spec (R392, log 42); the value of rN outside the modulo constraints is free (log 8). -/
def Obligations.BankLoadModify : Prop :=
  ∀ (s : State),
    (∀ k : BitVec 4, Gives (exec (.banke k) s) fun u =>
      (u.regs.r0, u.regs.r0b) = (if k.getLsbD 3 then (s.regs.r0b, s.regs.r0) else (s.regs.r0, s.regs.r0b)) ∧
        (u.regs.r1, u.regs.r1b) = (if k.getLsbD 2 then (s.regs.r1b, s.regs.r1) else (s.regs.r1, s.regs.r1b)) ∧
        (u.regs.r4, u.regs.r4b) = (if k.getLsbD 1 then (s.regs.r4b, s.regs.r4) else (s.regs.r4, s.regs.r4b)) ∧
        (u.regs.cfgi, u.regs.cfgib) =
          (if k.getLsbD 0 then (s.regs.cfgib, s.regs.cfgi) else (s.regs.cfgi, s.regs.cfgib)) ∧
        u.fl = s.fl ∧ Keeps [.rn .r0, .r0b, .rn .r1, .r1b, .rn .r4, .r4b, .cfgi, .cfgib] s s u) ∧
      (∀ v : BitVec 8, Gives (exec (.loadPage v) s) fun u => st1Image u = (st1Image s &&& 0xFF00#16) + v.setWidth 16 ∧
        u = { s with md := { s.md with page := v } }) ∧
      (∀ (j : Bool) (v : BitVec 9), Gives (exec (.loadMod j v) s) fun u =>
        (if j then u.regs.cfgj.toNat = v.toNat * 128 + s.regs.cfgj.toNat % 128 ∧ Keeps [.cfgj] s s u
          else u.regs.cfgi.toNat = v.toNat * 128 + s.regs.cfgi.toNat % 128 ∧ Keeps [.cfgi] s s u) ∧ u.fl = s.fl) ∧
      (∀ (j : Bool) (v : BitVec 7), Gives (exec (.loadStep j v) s) fun u =>
        (if j then u.regs.cfgj.toNat = s.regs.cfgj.toNat / 128 * 128 + v.toNat ∧ Keeps [.cfgj] s s u
          else u.regs.cfgi.toNat = s.regs.cfgi.toNat / 128 * 128 + v.toNat ∧ Keeps [.cfgi] s s u) ∧ u.fl = s.fl) ∧
      (∀ v : BitVec 2, Gives (exec (.loadPs v) s) fun u =>
        (readReg .st1 u).1.extractLsb' 10 2 = v ∧ u = { s with md := { s.md with ps := v } }) ∧
      (∀ n m dmod, Gives (exec (.modr n m dmod) s) fun u =>
        getRN n u = getRN n (postMod n m dmod s) ∧ (u.fl.r = true ↔ (getRN n u).toNat = 0) ∧
          u.fl = { s.fl with r := u.fl.r } ∧ Keeps [.rn n] s (postMod n m dmod s) u)

/-! ## Program control -/

/-- br and brr when the condition holds, nop, eint and dint (R401, R402, R430, R432, R433): the program counter or IE
takes its new value and nothing else changes; the relative offset counts from the address after the word. brr is one
word by the reading C10 (log 42). eint runs in a context-switched routine too (log 43). exec is given the program
counter past the words (log 27). -/
def Obligations.BranchesAndEnables : Prop :=
  ∀ (s : State),
    (∀ addr cc, condHolds cc s = true → Gives (exec (.br addr cc) s) fun u => u = { s with pc := addr }) ∧
      (∀ (o : BitVec 7) cc, condHolds cc s = true → Gives (exec (.brr o cc) s) fun u =>
        u = { s with pc := BitVec.ofInt 16 (s.pc.toNat + o.toInt) }) ∧
      exec .nop s = .next s ∧
      Gives (exec .eint s) (fun u => (st0Image u).getLsbD 1 = true ∧ u = { s with md := { s.md with ie := true } }) ∧
      Gives (exec .dint s) (fun u => (st0Image u).getLsbD 1 = false ∧ u = { s with md := { s.md with ie := false } })

/-- call, callr and calla (R403, R404, R406): the address after the instruction is pushed and the program counter
loaded; nothing else changes. That calla takes the raw low half of aX, never limited, is decision D17 (R404, log 32).
That the pushed word is the address after the instruction is an inference of the spec (R403, log 42). -/
def Obligations.Calls : Prop :=
  ∀ (s w : State),
    let low := s.regs.sp - 1
    dataWrite low s.pc { s with regs := { s.regs with sp := low } } = .next w →
      let calls := fun (target : Word) (u : State) => u.pc = target ∧ u.regs.sp = low ∧
        Stored low s.pc [.sp] s s w { u with pc := s.pc }
      (∀ addr cc, condHolds cc s = true → Gives (exec (.call addr cc) s) (calls addr)) ∧
        (∀ (o : BitVec 7) cc, condHolds cc s = true →
          Gives (exec (.callr o cc) s) (calls (BitVec.ofInt 16 (s.pc.toNat + o.toInt)))) ∧
        (∀ a, Gives (exec (.calla a) s) (calls (BitVec.ofNat 16 ((getAcc (accOfA a) s).toNat % 65536))))

/-- ret and rets (R410, R411, R420): the word at sp is the new program counter, sp goes up by one, and by the immediate
too for rets; a repeat that was put aside goes on when its instruction is returned to. The resumption is decision D22
(R420, log 22). -/
def Obligations.Returns : Prop :=
  ∀ (s t : State) (v : Word), Reads s.regs.sp s v t →
    let back := fun (sp : Word) (u : State) => u.pc = v ∧ u.regs.sp = sp ∧ u.fl = s.fl ∧ u.md = s.md ∧
      SameMemory s u ∧ SameDevices t u ∧
      (s.ctl.repSuspended = false ∨ v ≠ s.ctl.repSavedAddr → u.ctl = s.ctl ∧ SameRegsBut [.sp] s u) ∧
      (s.ctl.repSuspended = true → v = s.ctl.repSavedAddr → u.regs.repc = s.ctl.repSaved ∧ u.ctl.repActive = true ∧
        u.ctl.repAddr = v ∧ u.ctl.repSuspended = false ∧ SameRegsBut [.sp, .repc] s u)
    (∀ cc, condHolds cc s = true → Gives (exec (.ret cc) s) (back (s.regs.sp + 1))) ∧
      (∀ k : BitVec 8, Gives (exec (.rets k) s) (back (BitVec.ofNat 16 (s.regs.sp.toNat + 1 + k.toNat))))

/-- reti when the condition holds (R412, R420, R464, R467, R472, R512): as ret, and a repeat that was put aside goes on
when its instruction is returned to; then the end of the TRAP/BI routine clears in_trap, leaves IE, marks the next
instruction as the first after it and keeps MODE0.SSE for the single step; the end of another routine sets IE; with
context the shadowed fields come back, a1 and b1, and PAGE and its alternative, change places. The rest of the loop,
repeat and device state stays. The bit in_trap, its clearing by this return and IE left alone then are decision D10
(R467, log 32); the resumption is D22 (log 22). That reti is not delayed is the reading C43 (log 42). -/
def Obligations.ReturnFromInterrupt : Prop :=
  ∀ (s t : State) (v : Word) (cc : Cond), Reads s.regs.sp s v t → condHolds cc s = true →
    let c : Control := if s.ctl.inTrap then { s.ctl with
        inTrap := false
        trapRet := true
        trapRetLater := false
        stepArmed := s.ocem.mode0.getLsbD 15 }
      else s.ctl
    let ends := fun (u : State) => u.pc = v ∧ u.regs.sp = s.regs.sp + 1 ∧ u.ctl.inTrap = false ∧
      u.md.ie = (if s.ctl.inTrap then s.md.ie else true) ∧ SameMemory s u ∧ SameDevices t u ∧ u.dpmb = s.dpmb ∧
      u.iuser0 = s.iuser0 ∧ u.iuser1 = s.iuser1 ∧ u.tm = s.tm ∧ u.inputs = s.inputs ∧ u.armLog = s.armLog ∧
      (s.ctl.repSuspended = false ∨ v ≠ s.ctl.repSavedAddr → u.ctl = c ∧ u.regs.repc = s.regs.repc) ∧
      (s.ctl.repSuspended = true → v = s.ctl.repSavedAddr → u.regs.repc = s.ctl.repSaved ∧
        u.ctl = { c with repActive := true, repAddr := v, repSuspended := false, repResumed := true })
    Gives (exec (.reti cc false) s) (fun u => ends u ∧ u.fl = s.fl ∧ u.md = { s.md with ie := u.md.ie } ∧
        u.shadow = s.shadow ∧ SameRegsBut [.sp, .repc] s u) ∧
      Gives (exec (.reti cc true) s) (fun u => ends u ∧ u.regs.a1 = s.regs.b1 ∧ u.regs.b1 = s.regs.a1 ∧
        u.md.page = s.shadow.pageAlt ∧ u.shadow = { s.shadow with pageAlt := s.md.page } ∧
        (st0Image u).extractLsb' 2 10 = s.shadow.st0 ∧ (st0Image u).getLsbD 0 = s.shadow.sat ∧
        u.md.ps = s.shadow.ps ∧ st2Low u = s.shadow.st2 ∧ SameRegsBut [.sp, .repc, .acc .a1, .acc .b1] s u ∧
        u.md = { u.md with ou0 := s.md.ou0, ou1 := s.md.ou1, nmic := s.md.nmic, ic0 := s.md.ic0, ic1 := s.md.ic1,
                           ic2 := s.md.ic2 })

/-- retd and retid (R413 to R415): the target is popped at once, the program counter goes on in sequence, and two cycles
are to pass; retid ends the service routine as reti does. An instruction that does not use up the cycles lowers their
count and the program counter stays in sequence; one that does has the target loaded after it, and a repeat that was put
aside at the target goes on (R420, D22, log 22). The bit in_trap, its clearing by retid and IE left alone then are
decision D10 (R467, log 32). That the target goes to pc is the reading C44, and that retid never restores the context is
R415's inference (log 42). -/
def Obligations.DelayedReturns : Prop :=
  ∀ (s t : State) (v : Word), Reads s.regs.sp s v t →
    let starts := fun (u : State) => u.pc = s.pc ∧ u.regs.sp = s.regs.sp + 1 ∧ u.ctl.delayTarget = v ∧
      u.ctl.delayCount = 2 ∧ u.fl = s.fl ∧ SameRegsBut [.sp] s u ∧ SameMemory s u ∧ SameDevices t u
    Gives (exec .retd s) (fun u => starts u ∧ u.md = s.md ∧ u.ctl.inTrap = s.ctl.inTrap) ∧
      Gives (exec .retid s) (fun u => starts u ∧ u.ctl.inTrap = false ∧
        u.md = { s.md with ie := if s.ctl.inTrap then s.md.ie else true }) ∧
      (∀ (b u : State) (n : Nat), b.ctl.delayCount ≠ 0 →
        let w := afterDelay n b u
        (n < b.ctl.delayCount → w = { u with ctl := { u.ctl with delayCount := b.ctl.delayCount - n } }) ∧
          (b.ctl.delayCount ≤ n → w.pc = u.ctl.delayTarget ∧ w.ctl.delayCount = 0 ∧ w.fl = u.fl ∧ w.md = u.md ∧
            SameRegsBut [.repc] u w ∧ SameMemory u w ∧
            (u.ctl.repSuspended = false ∨ u.ctl.delayTarget ≠ u.ctl.repSavedAddr → w.regs.repc = u.regs.repc ∧
              w.ctl.repActive = u.ctl.repActive ∧ w.ctl.repSuspended = u.ctl.repSuspended) ∧
            (u.ctl.repSuspended = true → u.ctl.delayTarget = u.ctl.repSavedAddr →
              w.regs.repc = u.ctl.repSaved ∧ w.ctl.repActive = true ∧ w.ctl.repAddr = u.ctl.delayTarget ∧
                w.ctl.repSuspended = false))) ∧
      (∀ (i : Instr) (a : Word) (b u : State), b.ctl.delayCount ≠ 0 → b.ctl.repActive = false → u.ctl.lp = false →
        let w := afterInstr i a b u
        let n := cyclesOf (instrInfo i) b
        (n < b.ctl.delayCount → w.pc = u.pc ∧ w.ctl.delayCount = b.ctl.delayCount - n) ∧
          (b.ctl.delayCount ≤ n → w.pc = u.ctl.delayTarget ∧ w.ctl.delayCount = 0))

/-- trap (R431, R468): the address after it is pushed, before in_trap is set, and saved in dvm; control goes to
0x0002, in_trap is set, STATUS0.SFT too (R504), and IE stays; inside the TRAP/BI routine it is refused (log 16). The
bit in_trap, set here, and IE left alone are decision D10 (R431, R467, log 32); that the emulation module sees the
push before in_trap is set is log 24. A trap that a repeat would repeat is refused by the step (R421, OrderRules). -/
def Obligations.Traps : Prop :=
  ∀ (s : State),
    (s.ctl.inTrap = true → exec .trap s = .refused (.sequence .trapInTrap)) ∧
      (∀ w, s.ctl.inTrap = false → s.ctl.repActive = false →
        dataWrite (s.regs.sp - 1) s.pc { s with
          regs := { s.regs with sp := s.regs.sp - 1 }
          ocem := { s.ocem with status0 := s.ocem.status0 ||| 0x8000#16 } } = .next w →
        Gives (exec .trap s) fun u => u = { w with
            pc := 0x0002#16
            regs := { w.regs with dvm := s.pc }
            ctl := { s.ctl with inTrap := true } } ∧
          u.regs.sp = s.regs.sp - 1 ∧ u.md = s.md ∧ u.fl = s.fl ∧ u.shadow = s.shadow ∧
          (dataRegion (s.regs.sp - 1) ≠ .ocem → u.ocem.status0.getLsbD 15 = true) ∧ SameRegsBut [.sp, .dvm] s u ∧
          (∀ k, k ≠ 2 * (cellOf (s.regs.sp - 1)).toNat → k ≠ 2 * (cellOf (s.regs.sp - 1)).toNat + 1 →
            memByte u.data k = memByte s.data k) ∧ ∀ k, memByte u.prog k = memByte s.prog k)

/-- rep (R420): repc takes the operand and the next address is repeated; the sequencing runs it again while repc is
not 0, counting down, and goes on when it is 0. That repc counts down to 0, and the test on it, are decision D21, and
that an accumulator half is read raw is D17 (log 32). -/
def Obligations.Repeats : Prop :=
  ∀ (s : State),
    let starts := fun (n : Word) (t u : State) => u.regs.repc = n ∧ u.ctl.repActive = true ∧ u.ctl.repAddr = s.pc ∧
      u.fl = s.fl ∧ u.pc = s.pc ∧ u.md = s.md ∧ SameRegsBut [.repc] s u ∧ SameMemory s u ∧ SameDevices t u
    (∀ k : BitVec 8, Gives (exec (.repShort k) s) (starts (BitVec.ofNat 16 k.toNat) s)) ∧
      (∀ r, (Instr.repReg r).wf = true → Gives (exec (.repReg r) s) (starts (readReg r s).1 (readReg r s).2)) ∧
      (∀ (b : State) (a : Word), b.ctl.repActive = true → a = b.ctl.repAddr →
        (s.regs.repc ≠ 0 → (afterRepeat a b s).2 = true ∧ (afterRepeat a b s).1.pc = a ∧
          (afterRepeat a b s).1.regs.repc.toNat = s.regs.repc.toNat - 1) ∧
        (s.regs.repc = 0 → (afterRepeat a b s).2 = false ∧ (afterRepeat a b s).1.ctl.repActive = false ∧
          (afterRepeat a b s).1.pc = s.pc))

/-- bkrep (R422): lc takes the operand, the body runs from the next address to the given one, LP is set and BC goes up;
with a loop running its addresses and lc are saved. A fifth level, a body of less than two words, or the last address of
an enclosing level is refused (R422, R425). That only a last address equal to that of a running level is refused is the
model's reading of R425 item 6 (log 48). -/
def Obligations.BlockRepeats : Prop :=
  ∀ (s : State) (last : Word),
    let ok := s.ctl.bc.toNat < 4 ∧ s.pc.toNat < last.toNat ∧
      (s.ctl.lp = true → last ≠ s.ctl.bkEnd ∧ ∀ f ∈ s.ctl.bkSaved, last ≠ f.last)
    let starts := fun (n : Word) (t u : State) => u.regs.lc = n ∧ u.ctl.bkStart = s.pc ∧ u.ctl.bkEnd = last ∧
      u.ctl.lp = true ∧ u.ctl.bc.toNat = s.ctl.bc.toNat + 1 ∧
      (s.ctl.bc ≠ 0 → u.ctl.bkSaved = ⟨s.ctl.bkStart, s.ctl.bkEnd, s.regs.lc⟩ :: s.ctl.bkSaved) ∧ u.fl = s.fl ∧
      u.pc = s.pc ∧ u.md = s.md ∧ SameRegsBut [.lc] s u ∧ SameMemory s u ∧ SameDevices t u
    (∀ k : BitVec 8, (ok → Gives (exec (.bkrepShort k last) s) (starts (BitVec.ofNat 16 k.toNat) s)) ∧
      (¬ok → exec (.bkrepShort k last) s = .refused (.sequence .blockShape))) ∧
      (∀ r, (Instr.bkrepReg r last).wf = true →
        (ok → Gives (exec (.bkrepReg r last) s) (starts (readReg r s).1 (readReg r s).2)) ∧
          (¬ok → exec (.bkrepReg r last) s = .refused (.sequence .blockShape)))

/-- break (R427) and the end of a pass (R423): break ends the level, the outer one with lc kept and LP cleared, an inner
one with the enclosing level's addresses and count; at the last address the body starts again while lc is not 0, and the
level ends as by break when it is. A clear of LP that waits for this level (R426) acts after the test, or after the
break, and leaves all levels; one that waits for another level stays (log 23). That lc counts down, and the test at the
last address, are decision D23 (log 32). That break with no level running leaves the state is not in the source: "not
described (a model treats it as a no-op)", says R427 (log 42). -/
def Obligations.BlockEnds : Prop :=
  ∀ (s : State),
    let waits := s.ctl.lpClear = some s.ctl.bc
    let left := fun (u : State) => u.ctl.lp = false ∧ u.ctl.bc = 0 ∧ u.ctl.bkSaved = [] ∧ u.ctl.lpClear = none
    (s.ctl.bc = 0 → exec .brk s = .next s) ∧
      (¬waits → s.ctl.bc = 1 → Gives (exec .brk s) fun u => u = { s with ctl := { s.ctl with bc := 0, lp := false } }) ∧
      (∀ f rest, ¬waits → 2 ≤ s.ctl.bc.toNat → s.ctl.bkSaved = f :: rest → Gives (exec .brk s) fun u =>
        u = { s with
          regs := { s.regs with lc := f.lc }
          ctl := { s.ctl with bc := s.ctl.bc - 1, bkStart := f.first, bkEnd := f.last, bkSaved := rest } }) ∧
      (waits → s.ctl.bc ≠ 0 → Gives (exec .brk s) fun u => left u ∧ u.pc = s.pc ∧ SameRegsBut [.lc] s u ∧ u.fl = s.fl ∧
        (s.ctl.bc = 1 → u.regs.lc = s.regs.lc)) ∧
      (∀ next, s.ctl.lp = true → s.ctl.bkEnd = next - 1 → s.pc = next → s.ocem.mode0 = 0 →
        (¬waits →
          (s.regs.lc ≠ 0 →
            afterBlock next s = { s with regs := { s.regs with lc := s.regs.lc - 1 }, pc := s.ctl.bkStart }) ∧
          (s.regs.lc = 0 → s.ctl.bc = 1 →
            afterBlock next s = { s with ctl := { s.ctl with bc := 0, lp := false } }) ∧
          (∀ f rest, s.regs.lc = 0 → 2 ≤ s.ctl.bc.toNat → s.ctl.bkSaved = f :: rest →
            afterBlock next s = { s with
              regs := { s.regs with lc := f.lc }
              ctl := { s.ctl with bc := s.ctl.bc - 1, bkStart := f.first, bkEnd := f.last, bkSaved := rest } })) ∧
        (waits → left (afterBlock next s) ∧
          (s.regs.lc ≠ 0 → (afterBlock next s).pc = s.ctl.bkStart ∧ (afterBlock next s).regs.lc = s.regs.lc - 1) ∧
          (s.regs.lc = 0 → (afterBlock next s).pc = next)))

/-! ## Context switching, interrupts, agents -/

/-- cntx (R434, R471, R472): the store saves the listed fields, exchanges a1 with b1 and PAGE with its alternative, and
sets Z, M, E, N from the new a1; a restore right after it gives the old state back but for the shadows. The formula of N
is presumed from general knowledge (R39, R180, log 31). That the restore overwrites V, C, L, R and the masks too is
R434's own reading of its printed flag row (log 42). The store runs from any state, a second one before a restore
included (log 43). -/
def Obligations.ContextSwitching : Prop :=
  ∀ (s : State),
    Gives (exec (.cntx false) s) (fun u => u.regs = { s.regs with a1 := s.regs.b1, b1 := s.regs.a1 } ∧
      u.md = { s.md with page := s.shadow.pageAlt } ∧ ZMEN s.regs.b1 u.fl ∧ SameVCLR s.fl u.fl ∧
      u.shadow.st0 = (st0Image s).extractLsb' 2 10 ∧ u.shadow.sat = s.md.sat ∧ u.shadow.ps = s.md.ps ∧
      u.shadow.st2 = (st2Image s).extractLsb' 0 8 ∧ u.shadow.pageAlt = s.md.page ∧
      u = { s with regs := u.regs, md := u.md, fl := u.fl, shadow := u.shadow } ∧
      exec (.cntx true) u = .next { s with shadow := { u.shadow with pageAlt := s.shadow.pageAlt } }) ∧
    Gives (exec (.cntx true) s) (fun u => u.regs = { s.regs with a1 := s.regs.b1, b1 := s.regs.a1 } ∧
      u.md.page = s.shadow.pageAlt ∧ u.md.ie = s.md.ie ∧ (st0Image u).extractLsb' 2 10 = s.shadow.st0 ∧
      u.md.sat = s.shadow.sat ∧ u.md.ps = s.shadow.ps ∧ (st2Image u).extractLsb' 0 8 = s.shadow.st2 ∧
      u.shadow = { s.shadow with pageAlt := s.md.page } ∧
      u = { s with regs := u.regs, md := u.md, fl := u.fl, shadow := u.shadow })

/-- The entry of a maskable interrupt and of BI (R420, R461, R463, R468, R471, R571): a running repeat is put aside, the
program counter is pushed, the vector is loaded. A maskable interrupt clears IE, and, when its ICx is set, exchanges a1
with b1 and PAGE with its alternative, saves the shadowed status fields and sets Z, M, E, N from the new a1; no other
register, mode or device changes. ICx is the one in icr, or, right after a write of icr, the one before that write. BI
saves the program counter in dvm too and sets in_trap, after the push, without touching IE; its request ends, and so
does a pending single step (log 24), and the trace buffer records nothing (R514). What the step runs adds to the entry
of a maskable interrupt that ICx is sampled anew, that the trace buffer takes the last address and the vector (R514),
dropping its two oldest records when it is full (log 37), and that INTE breaks (R507, R513). The bit in_trap and IE left alone by
BI are decision D10 (R467, log 32). The formula of N is presumed from general knowledge (R39, R180, log 31). Z, M, E and
N set at this automatic store are R471's extension of the page of cntx (log 42), and the store runs in a
context-switched routine too (log 43). -/
def Obligations.InterruptEntry : Prop :=
  (∀ (s w : State),
    let low := s.regs.sp - 1
    let c : Control := if s.ctl.repActive then { s.ctl with
        repActive := false
        repSuspended := true
        repSaved := s.regs.repc
        repSavedAddr := s.ctl.repAddr
        repResumed := false }
      else s.ctl
    dataWrite low s.pc { s with regs := { s.regs with sp := low }, ctl := c } = .next w →
      (SameRegsBut [.sp] s w ∧ w.regs.sp = low ∧ w.md = s.md ∧ w.fl = s.fl ∧ w.shadow = s.shadow ∧ w.ctl = c ∧
        (∀ k, memByte w.prog k = memByte s.prog k) ∧
        (∀ k, k ≠ 2 * (cellOf low).toNat → k ≠ 2 * (cellOf low).toNat + 1 → memByte w.data k = memByte s.data k) ∧
        (Memory.wf s.data = true → dataRegion low = .ram → memWord w.data low = s.pc)) ∧
      (∀ p ∈ [(Event.int0, 0x0006#16), (.int1, 0x000E#16), (.int2, 0x0016#16)],
        Gives (takeException p.1 s) fun u =>
          (contextOn p.1 s = false → u = { w with pc := p.2, md := { s.md with ie := false } }) ∧
          (contextOn p.1 s = true →
            u = { w with
              pc := p.2
              regs := { w.regs with a1 := s.regs.b1, b1 := s.regs.a1 }
              md := { s.md with ie := false, page := s.shadow.pageAlt }
              fl := u.fl
              shadow := {
                st0 := (st0Image s).extractLsb' 2 10
                sat := s.md.sat
                ps := s.md.ps
                st2 := (st2Image s).extractLsb' 0 8
                pageAlt := s.md.page } } ∧ ZMEN s.regs.b1 u.fl ∧ SameVCLR s.fl u.fl)) ∧
      Gives (takeException .trapBi s) (fun u => u = { w with
        pc := 0x0002#16
        regs := { w.regs with dvm := s.pc }
        ctl := { c with inTrap := true } })) ∧
  (∀ (s u : State), takeBi s = .next u → u.ctl.inTrap = true ∧ u.ctl.trapRet = false ∧ u.ctl.stepArmed = false ∧
    (s.ocem.mode0 = 0 → u.ocem.biReq = false) ∧ u.pc = 0x0002#16 ∧ u.regs.dvm = s.pc ∧ u.md = s.md ∧
    u.ocem.trace = s.ocem.trace) ∧
  (∀ (i : Instr) (a : Word) (b t : State),
    let u := afterInstr i a b t
    let m := match i with
      | .movRegIcr _ | .movShortIcr _ => b.md
      | _ => t.md
    u.md = t.md ∧ contextOn .int0 u = m.ic0 ∧ contextOn .int1 u = m.ic1 ∧ contextOn .int2 u = m.ic2 ∧
      contextOn .trapBi u = false) ∧
  (∀ (s t : State), ∀ p ∈ [(Event.int0, 0x0006#16), (.int1, 0x000E#16), (.int2, 0x0016#16)],
    takeException p.1 s = .next t →
      (t.ocem.mode0 = 0 → Gives (takeInterrupt p.1 s) fun u =>
        u = { t with tm := { t.tm with icPrev := u.tm.icPrev }, ocem := { t.ocem with trace := u.ocem.trace } } ∧
          contextOn .int0 u = t.md.ic0 ∧ contextOn .int1 u = t.md.ic1 ∧ contextOn .int2 u = t.md.ic2 ∧
          (t.ocem.trace.length = 16 → u.ocem.trace.drop 14 = [⟨false, s.tm.lastAddr⟩, ⟨false, p.2⟩] ∧
            (traceUnused ∉ t.ocem.trace → u.ocem.trace.take 14 = t.ocem.trace.drop 2))) ∧
      (t.ocem.mode0.getLsbD 11 = true → t.ctl.inTrap = false → Gives (takeInterrupt p.1 s) fun u =>
        u.ocem.biReq = true ∧ u.ocem.status0.getLsbD 12 = true ∧ u.pc = p.2))

/-- When an interrupt is taken (R420, R460, R462, R464, R465, R467, R468), and what requests BI (R506 to R514). Never
inside the TRAP/BI routine or with a delayed return pending; BI on a request, when no nested repeat runs and no delay
holds it off; INT0 and INT1 exactly when IE and the mask are set, the line is active (R523, R538), three instructions
were fetched since reset and no delay holds them off, INT0 first. The step takes BI before a maskable interrupt, and
either before an instruction (R465). The delays are those of Table 14, row by row, of the rows that apply the longest,
counted as log 20 says, BI being held after the last repetition too. The bit in_trap is decision D10 (log 32). BI is
requested by a program breakpoint on the fetch, by an access to the mailbox or the emulation registers when ILLE is set,
by an access to a port, by a jump or the end of a delayed return, by the return to the start of a block, by the single
step, by the trace buffer becoming full when TBFE is set, and, two instructions after it, by a data access that matches
(log 14), the mask DAM with its default sense (D27, log 5). The trace buffer records a jump that is taken outside the
TRAP/BI routine, in one stage with tag 1 for br, brr, call and callr, in two with tag 0 for the others, mov ##long, pc
among them (log 47), one of a delayed return when it happens (log 24, no other jump being allowed in its delay, R414), and
an interrupt entry in two; nothing else is recorded (R514); a full buffer drops its oldest stages, with TBFE set too, which breaks no more then (log 37).
Inferences of the spec (log 42): INT1 as a level of any enabled latch (R538, log 25), INT0 as any OIS (R523), the
guarded count of a program breakpoint (R508, log 24), a combined breakpoint in place of the separate ones (R510).
OCEM_ABORT has its default (log 39). -/
def Obligations.InterruptAcceptance : Prop :=
  (∀ (s : State),
    let free := s.ctl.inTrap = false ∧ s.ctl.delayCount = 0 ∧ ¬(s.ctl.repSuspended = true ∧ s.ctl.repActive = true)
    let may := free ∧ s.md.ie = true ∧ 3 ≤ s.tm.fetches ∧ s.tm.delay01 = 0
    let int0 := s.dpmb.ois.toNat ≠ 0 ∧ s.md.im0 = true
    (s.ctl.inTrap = true ∨ s.ctl.delayCount ≠ 0 → biAccepted s = false ∧ intAccepted s = none) ∧
      (biAccepted s = true ↔ s.ocem.biReq = true ∧ free ∧ s.tm.delayBi = 0) ∧
      (s.md.ie = false ∨ s.tm.fetches < 3 → intAccepted s = none) ∧
      (intAccepted s = some .int0 ↔ may ∧ int0) ∧
      (intAccepted s = some .int1 ↔ may ∧ ¬int0 ∧ s.md.im1 = true ∧ int1Line s = true) ∧
      intAccepted s ≠ some .int2 ∧ intAccepted s ≠ some .trapBi ∧
      (int1Line s = true ↔ ∃ p ∈ [(0, 2), (1, 3), (5, 4), (2, 5), (3, 6), (4, 7), (6, 8)],
        s.codec.sts.getLsbD p.1 = true ∧ s.codec.cnt.getLsbD p.2 = true) ∧
      (s.inputs = [] →
        (biAccepted s = true → step s = takeBi s) ∧
        (biAccepted s = false → (∀ e, intAccepted s = some e → step s = takeInterrupt e s) ∧
          (intAccepted s = none → biAccepted (ocemFetch s.pc s) = true → step s = takeBi (ocemFetch s.pc s))))) ∧
  (∀ (i : Instr) (a : Word) (b t : State),
    let u := afterInstr i a b t
    let n := cyclesOf (instrInfo i) b
    (b.ctl.repActive = true → a = b.ctl.repAddr → b.regs.repc = 0 → biAccepted u = false ∧ intAccepted u = none) ∧
      (b.ctl.trapRet = true ∨ writesReg i .st0 → intAccepted u = none) ∧
      (∀ r ∈ delayRows i a b, r.1 →
        r.2.1 ≤ u.tm.delay01 ∧ r.2.2.1 ≤ u.tm.delay2 ∧ r.2.2.2 ≤ u.tm.delayBi) ∧
      b.tm.delay01 - n ≤ u.tm.delay01 ∧ b.tm.delay2 - n ≤ u.tm.delay2 ∧ b.tm.delayBi - n ≤ u.tm.delayBi ∧
      (u.tm.delay01 = b.tm.delay01 - n ∨ ∃ r ∈ delayRows i a b, r.1 ∧ u.tm.delay01 = r.2.1) ∧
      (u.tm.delay2 = b.tm.delay2 - n ∨ ∃ r ∈ delayRows i a b, r.1 ∧ u.tm.delay2 = r.2.2.1) ∧
      (u.tm.delayBi = b.tm.delayBi - n ∨ ∃ r ∈ delayRows i a b, r.1 ∧ u.tm.delayBi = r.2.2.2) ∧
      u.tm.fetches = min 3 (b.tm.fetches + 1) ∧
      (b.ocem.biData = 1 → u.ocem.biReq = true) ∧ (b.ocem.biData = 2 → u.ocem.biData = 1) ∧
      (b.ctl.trapRet = true → b.ctl.stepArmed = true → u.ocem.biReq = true) ∧
      (b.ctl.inTrap = false → transfers i b ∨ writesReg i .pc → t.ocem.mode0.getLsbD 10 = true →
        u.ocem.biReq = true ∧ u.ocem.status0.getLsbD 11 = true) ∧
      (b.ctl.delayCount ≠ 0 → b.ctl.delayCount ≤ n → t.ctl.delayFrom ≠ none → t.ocem.mode0.getLsbD 10 = true →
        u.ocem.biReq = true ∧ u.ocem.status0.getLsbD 11 = true) ∧
      (t.ctl.inTrap = false → t.ocem.mode0.getLsbD 13 = true → b.ctl.repActive = false → t.ctl.lp = true →
        t.regs.lc ≠ 0 → t.pc = a + BitVec.ofNat 16 (instrInfo i).words → t.ctl.bkEnd = t.pc - 1 →
        u.ocem.biReq = true ∧ u.ocem.status0.getLsbD 11 = true)) ∧
  (∀ (i : Instr) (a : Word) (b t : State), t.ocem.trace.length = 16 →
    let u := afterInstr i a b t
    let jumps := b.ctl.inTrap = false ∧ (transfers i b ∨ writesReg i .pc)
    let returns := b.ctl.delayCount ≠ 0 ∧ b.ctl.delayCount ≤ cyclesOf (instrInfo i) b ∧ t.ctl.delayFrom ≠ none
    (¬jumps → ¬returns → TraceKept t u) ∧ (jumps → ¬returns → TraceTakes (jumpRecord i a t.pc) t u) ∧
      (∀ src, t.ctl.delayFrom = some src → ¬jumps → returns →
        TraceTakes [⟨false, src⟩, ⟨false, t.ctl.delayTarget⟩] t u)) ∧
  (∀ (s t : State), ∀ p ∈ [(Event.int0, 0x0006#16), (.int1, 0x000E#16), (.int2, 0x0016#16)],
    takeException p.1 s = .next t → t.ocem.trace.length = 16 →
      Gives (takeInterrupt p.1 s) (TraceTakes [⟨false, s.tm.lastAddr⟩, ⟨false, p.2⟩] t)) ∧
  (∀ (a : Word) (s : State),
    let t := ocemFetch a s
    let hit := fun (k : Nat) (p : Word) => s.ocem.mode0.getLsbD k = true ∧ s.ctl.inTrap = false ∧ a = p
    let o := s.ocem
    t = { s with ocem := { o with
      status0 := t.ocem.status0, biReq := t.ocem.biReq,
      pabc1 := t.ocem.pabc1, pabc2 := t.ocem.pabc2, pabc3 := t.ocem.pabc3 } } ∧
      (∀ r ∈ [(7, 5, o.pabp1, o.pabc1, t.ocem.pabc1), (8, 6, o.pabp2, o.pabc2, t.ocem.pabc2),
          (9, 7, o.pabp3, o.pabc3, t.ocem.pabc3)],
        (hit r.1 r.2.2.1 → r.2.2.2.2.toNat = r.2.2.2.1.toNat - 1) ∧
          (¬hit r.1 r.2.2.1 → r.2.2.2.2 = r.2.2.2.1) ∧
          (t.ocem.status0.getLsbD r.2.1 = true ↔ o.status0.getLsbD r.2.1 = true ∨
            hit r.1 r.2.2.1 ∧ r.2.2.2.1.toNat ≤ 1)) ∧
      (t.ocem.biReq = true ↔ o.biReq = true ∨ (hit 7 o.pabp1 ∧ o.pabc1.toNat ≤ 1) ∨
        (hit 8 o.pabp2 ∧ o.pabc2.toNat ≤ 1) ∨ (hit 9 o.pabp3 ∧ o.pabc3.toNat ≤ 1))) ∧
  (∀ (a v : Word) (s : State), s.ctl.inTrap = false →
    let m := fun k => s.ocem.mode0.getLsbD k = true
    let watched := fun (ka kv : Nat) (v : Word) (u : State) =>
      let da := m ka ∧ (a ^^^ s.ocem.dabp) &&& ~~~s.ocem.dam = 0
      let dv := m kv ∧ v = s.regs.dvm
      let hits := if s.ocem.mode0.getLsbD 4 then da ∧ dv else da ∨ dv
      (∀ k, u.ocem.status0.getLsbD k = true ↔ s.ocem.status0.getLsbD k = true ∨ (k = 2 ∧ m 4 ∧ da ∧ dv) ∨
        (k = 1 ∧ ¬m 4 ∧ da) ∨ (k = 0 ∧ ¬m 4 ∧ dv)) ∧
        (hits → s.ocem.biData = 0 → u.ocem.biData = 2) ∧ (¬hits ∨ s.ocem.biData ≠ 0 → u.ocem.biData = s.ocem.biData) ∧
        u.ocem.biReq = s.ocem.biReq
    (dataRegion a = .ram → Gives (dataRead a s) (fun q => watched 3 1 q.1 q.2) ∧ Gives (dataWrite a v s) (watched 2 0 v)) ∧
      (m 14 → dataRegion a = .mailbox ∨ dataRegion a = .semaphore ∨ dataRegion a = .ocem →
        Gives (dataRead a s) (fun q => q.2.ocem.biReq = true ∧ q.2.ocem.status0.getLsbD 14 = true) ∧
          Gives (dataWrite a v s) fun u => u.ocem.biReq = true ∧ u.ocem.status0.getLsbD 14 = true) ∧
      (∀ r k, extOfReg r = some k →
        (m 6 → (readReg r s).2.ocem.biReq = true ∧ (readReg r s).2.ocem.status0.getLsbD 3 = true) ∧
          (m 5 → (writeReg r v s).ocem.biReq = true ∧ (writeReg r v s).ocem.status0.getLsbD 3 = true)))

/-- The ARM and the Oak on one mailbox (R501, R521 to R528): the words of each mailbox in the layouts of the three
configurations that survive (D29, log 32) belong to the Oak exactly when ATO and Sem agree; a word of the mailbox RAM is
written and read by the ARM exactly when the Oak has no permission for it, its other reads being open (log 38). Bit 0 of
what the ARM writes to DPMBSk, as a half-word or as a word, sets or clears Sem; a Set with ATO high and a Clear with ATO
low raise OIS when OIE is set, and nothing else raises it; a Set with ATO high keeps AIS, every other operation clears
it; the other mailboxes and the rest of the state stay, and a write of the high half does nothing (log 19). An Oak write
clears OIS; the Oak's interrupt line is active while an OIS is set, the ARM's while an AIS is. The ARM reads DPMBSk and
DPMBCC, in halves or as a word (log 38); an access that is not aligned is an abort and does nothing else. What the ARM
gets stands in its record. What one side changes the other sees at once, a delay the spec leaves open (log 45). The step
applies the events of its list in order, and then the core acts (log 17; OCEM_ABORT has its default 0, log 39): the
accesses of the ARM, the pins, a delivery and a taking by the codec as R541 has them (a word that meets a full FIFO is
lost, log 15; RXW at FPS words and LOOP as log 25 reads them), and a reset by the host, which keeps memories, mailbox
and pins (D28, D32, log 26), stores every uploaded word that has a place in program memory, the last one of an address
listed twice (log 26), and is refused below twelve cycles (U13). The order of the halves of an ARM word is decision D8,
which the spec takes from general knowledge (log 31); that RESET clears all of DPMBCC and the semaphores is D28 (log
32), and its halves are written apart as log 19 says. That one line stands for all AIS (R523), that Table 9 goes by the
operation (R524) and that OIE is for the Oak (C50) are inferences of the spec (log 42). -/
def Obligations.MailboxAgents : Prop :=
  ∀ (s : State) (v : Word) (n : BitVec 8) (k : Nat), k < 8 →
    let off : BitVec 10 := BitVec.ofNat 10 (2 * n.toNat)
    let u := armWriteHalf off v s
    let cell : Word := 0xE000#16 + n.setWidth 16
    let gets := fun (e : ArmAccess) => { s with armLog := s.armLog ++ [e] }
    let bit := fun (w : BitVec 8) => (w.getLsbD k).toNat
    (∀ p ∈ [(0#2, [0, 0x20, 0x40, 0x60, 0x80, 0xA0, 0xC0, 0xE0, 0x100]),
        (1#2, [0, 0x70, 0x80, 0x90, 0xB0, 0xD0, 0xE0, 0xF0, 0x100]),
        (2#2, [0, 0x40, 0x80, 0xA0, 0xC0, 0xD0, 0xE0, 0xF0, 0x100])],
      s.dpmb.config = p.1 → p.2.getD k 0 ≤ n.toNat → n.toNat < p.2.getD (k + 1) 0 →
        (oakOwns s.dpmb n = true ↔ s.dpmb.ato.getLsbD k = s.dpmb.sem.getLsbD k)) ∧
      (oakOwns s.dpmb n = true → u = s ∧
        ∃ x, armReadHalf off s = { gets (.half off x) with freeCount := s.freeCount + 1 }) ∧
      (oakOwns s.dpmb n = false → (Memory.wf s.data = true → memWord u.data cell = v) ∧
        (∀ a, a ≠ 2 * (0xE000 + n.toNat) → a ≠ 2 * (0xE000 + n.toNat) + 1 → memByte u.data a = memByte s.data a) ∧
        u = { s with data := u.data } ∧ armReadHalf off s = gets (.half off (memWord s.data cell)) ∧
        (n.getLsbD 0 = false → armReadWord off s = gets (.word off (memWord s.data (cell + 1) ++ memWord s.data cell)))) ∧
      (let reg : BitVec 10 := BitVec.ofNat 10 (0x200 + 4 * k)
       let d := s.dpmb
       let raises := fun (set : Bool) => d.ato.getLsbD k = set ∧ d.oie.getLsbD k = true
       let keeps := fun (set : Bool) => set = true ∧ d.ato.getLsbD k = true
       let operates := fun (set : Bool) (w : State) =>
         w = { s with dpmb := { d with sem := w.dpmb.sem, ois := w.dpmb.ois, ais := w.dpmb.ais } } ∧
           w.dpmb.sem.getLsbD k = set ∧ (w.dpmb.ois.getLsbD k = true ↔ d.ois.getLsbD k = true ∨ raises set) ∧
           (w.dpmb.ais.getLsbD k = true ↔ d.ais.getLsbD k = true ∧ keeps set) ∧
           (raises set → int0Line w = true) ∧
           ∀ j, j ≠ k → w.dpmb.sem.getLsbD j = d.sem.getLsbD j ∧ w.dpmb.ois.getLsbD j = d.ois.getLsbD j ∧
             w.dpmb.ais.getLsbD j = d.ais.getLsbD j
       operates (v.getLsbD 0) (armWriteHalf reg v s) ∧
         (∀ x : BitVec 32, operates (x.getLsbD 0) (armWriteWord reg x s)) ∧ armWriteHalf (reg + 2) v s = s) ∧
      (∀ b, (oakSemWrite k b s.dpmb).ois.getLsbD k = false) ∧ (int0Line s = true ↔ s.dpmb.ois.toNat ≠ 0) ∧
      (armIrqLine s = true ↔ s.dpmb.ais.toNat ≠ 0) ∧
      (let reg : BitVec 10 := BitVec.ofNat 10 (0x200 + 4 * k)
       armReadHalf reg s = gets (.half reg (BitVec.ofNat 16 (bit s.dpmb.sem + 2 * bit s.dpmb.ais + 4 * bit s.dpmb.ois))) ∧
        armReadWord reg s = gets (.word reg (BitVec.ofNat 32 (bit s.dpmb.sem + 2 * bit s.dpmb.ais + 4 * bit s.dpmb.ois)))) ∧
      armReadWord 0x220 s = gets (.word 0x220 (BitVec.ofNat 32 (s.dpmb.config.toNat * 2 ^ 29 + s.dpmb.oie.toNat * 2 ^ 16 +
        s.dpmb.aie.toNat * 2 ^ 8 + s.dpmb.ato.toNat))) ∧
      (∀ x : BitVec 32, armWriteWord 0x220 x s = { s with dpmb := if x.getLsbD 31 then ⟨0, 0, 0, 0, 0, 0, 0⟩ else
        { s.dpmb with
          ato := BitVec.ofNat 8 x.toNat
          aie := BitVec.ofNat 8 (x.toNat / 2 ^ 8)
          oie := BitVec.ofNat 8 (x.toNat / 2 ^ 16)
          config := BitVec.ofNat 2 (x.toNat / 2 ^ 29) } }) ∧
      (∀ (o : BitVec 10) (x : BitVec 32),
        (o.toNat % 2 = 1 → armReadHalf o s = gets (.abort o) ∧ armWriteHalf o v s = gets (.abort o)) ∧
          (o.toNat % 4 ≠ 0 → armReadWord o s = gets (.abort o) ∧ armWriteWord o x s = gets (.abort o))) ∧
      (s.inputs = [] → step s = coreStep s) ∧
      (∀ es rest, s.inputs = es :: rest → step s = andThen (applyEvents es { s with inputs := rest }) coreStep) ∧
      applyEvents [] s = .next s ∧ (∀ e es, applyEvents (e :: es) s = andThen (applyEvent e s) (applyEvents es)) ∧
      (∀ (o : BitVec 10) (x : BitVec 32), applyEvent (.armWriteHalf o v) s = .next (armWriteHalf o v s) ∧
        applyEvent (.armWriteWord o x) s = .next (armWriteWord o x s) ∧
        applyEvent (.armReadHalf o) s = .next (armReadHalf o s) ∧ applyEvent (.armReadWord o) s = .next (armReadWord o s) ∧
        applyEvent (.armByteAccess o) s = .next (gets (.abort o))) ∧
      (∀ b, applyEvent (.pin0 b) s = .next { s with iuser0 := b } ∧ applyEvent (.pin1 b) s = .next { s with iuser1 := b }) ∧
      (let c := s.codec
       let arrives := fun (x : BitVec 32) (c d : Codec) => if Config.codecFifoDepth ≤ c.rxFifo.length
         then d = { c with sts := c.sts ||| 0x40#7 }
         else d = { c with rxFifo := c.rxFifo ++ [x], sts := d.sts } ∧ ∀ j, d.sts.getLsbD j = true ↔
           c.sts.getLsbD j = true ∨ (j = 3 ∧ c.rxFifo.length + 1 = Config.codecFifoDepth) ∨
             (j = 4 ∧ c.rxFifo.length + 1 = c.sck.toNat / 2 ^ 14)
       (∀ x, Gives (applyEvent (.codecDeliver x) s) fun w => w = { s with codec := w.codec } ∧
         (c.cnt.getLsbD 1 = true → c.cnt.getLsbD 13 = false → arrives x c w.codec) ∧
         (c.cnt.getLsbD 1 = false ∨ c.cnt.getLsbD 13 = true → w = s)) ∧
       Gives (applyEvent .codecTake s) fun w => w = { s with codec := w.codec } ∧
         (c.cnt.getLsbD 0 = false ∨ c.txFifo = [] → w = s) ∧
         (∀ x rest, c.cnt.getLsbD 0 = true → c.txFifo = x :: rest →
           let d := { c with txFifo := rest, sts := if rest = [] then c.sts ||| 1#7 else c.sts }
           (c.cnt.getLsbD 13 = true → c.cnt.getLsbD 1 = true → arrives x d w.codec) ∧
           (c.cnt.getLsbD 13 = false ∨ c.cnt.getLsbD 1 = false → w.codec = d))) ∧
      (∀ (cycles : Nat) (image : List (Word × Word)),
        (cycles < 12 → applyEvent (.hostReset cycles image) s = .refused .shortReset) ∧
        (12 ≤ cycles → Gives (applyEvent (.hostReset cycles image) s) fun w => w.pc = 0 ∧
          st0Image w &&& 0x0EFF#16 = 0 ∧ w.md.ps = 0 ∧ st2Image w &&& 0x03FF#16 = 0 ∧ icrImage w = 0 ∧
          w.ctl.inTrap = false ∧ w.ctl.repActive = false ∧ w.ctl.repSuspended = false ∧ w.ctl.delayCount = 0 ∧
          w.ocem.status0 = 0 ∧ w.ocem.mode0 = 0 ∧ w.ocem.mvd = false ∧ w.codec.cnt = 0x0800 ∧ w.codec.frm = 0x0096 ∧
          w.codec.sck = 0x401F ∧ w.codec.sts = 0 ∧ w.codec.txFifo = [] ∧ w.tm.fetches = 0 ∧ w.data = s.data ∧
          w.dpmb = s.dpmb ∧ w.iuser0 = s.iuser0 ∧ w.iuser1 = s.iuser1 ∧ w.inputs = s.inputs ∧
          (∀ before a x after, image = before ++ (a, x) :: after → (∀ p ∈ after, p.1 ≠ a) → a.toNat < 0x6000 →
            Memory.wf s.prog = true → memWord w.prog a = x) ∧
          ∀ j, (∀ p ∈ image, p.1.toNat < 0x6000 → j ≠ 2 * p.1.toNat ∧ j ≠ 2 * p.1.toNat + 1) →
            memByte w.prog j = memByte s.prog j))

/-! ## Order restrictions -/

/-- When the step refuses an instruction for an order rule (R107, R414, R421, R425, R565 to R570; refusing is decision
D25, log 16): near a recent movd by movdNearPc; else it is refused exactly when some rule of orderRules is broken, by
the name of a broken one, and the step then stops so. The marks the adjacent rules use are left by the instruction
before: a write of rb but by mov ##long, a write of sp, exp, max, maxd or min, a write of icr; movd leaves its target
for the next three instructions (log 30), the nops after a write of pc not counted (log 30). Item 5 of R425 is judged
when the first instruction of the running body runs, against its last one, found by reading the body in sequence, and
when the last one runs (log 46). callr at the end of a body (R425), retd under rep (R421) and a taken transfer in the
delay (R414) are refused by the spec's inference (log 42); the window of movd is D13 (log 32). What no rule of
orderRules refuses runs: call, callr, calla and trap right after a write of sp (log 44), cntx s and eint in a
context-switched routine (log 43), both the model's choice. -/
def Obligations.OrderRules : Prop :=
  (∀ (i : Instr) (a : Word) (s : State),
    let f := instrInfo i
    let near := ∃ t ∈ s.tm.movdRecent, t.1 = a ∨ (f.words = 2 ∧ t.1 = a + 1)
    (near → orderRefusal f a s = some .movdNearPc) ∧
      (¬near → (orderRefusal f a s = none ↔ ∀ r ∈ orderRules i a s, ¬r.2) ∧
        ((∃ r ∈ orderRules i a s, r.2) → ∃ r ∈ orderRules i a s, r.2 ∧ orderRefusal f a s = some (.sequence r.1)))) ∧
  (∀ (i : Instr) (s : State) (r : Refusal), s.inputs = [] → biAccepted s = false → intAccepted s = none →
    s.ocem.mode0 = 0 → progMapped s.pc = true → ((instrInfo i).words = 2 → progMapped (s.pc + 1) = true) →
    decode (memWord s.prog s.pc) (memWord s.prog (s.pc + 1)) = .ok i → orderRefusal (instrInfo i) s.pc s = some r →
    step s = .refused r) ∧
  (∀ (i : Instr) (a : Word) (b t : State),
    let m := (afterInstr i a b t).tm
    (m.hazRb = true ↔ writesReg i .rb ∧ ∀ v, i ≠ .movLongReg v .rb) ∧ (m.hazSp = true ↔ writesReg i .sp) ∧
      (m.hazExp = true ↔ (∃ n p d, i = .expInd n p d) ∨ (∃ r d, i = .expReg r d) ∨ ∃ x d, i = .expAcc x d) ∧
      (m.hazMixp = true ↔ (∃ x g p, i = .max x g p) ∨ (∃ x g p, i = .maxd x g p) ∨ ∃ x g p, i = .min x g p) ∧
      (m.hazIcr = true ↔ (∃ r, i = .movRegIcr r) ∨ ∃ v, i = .movShortIcr v) ∧
      m.movdRecent = (match i with
        | .movd _ _ .r4 _ => [(b.regs.r4, 3)]
        | .movd _ _ .r5 _ => [(b.regs.r5, 3)]
        | _ => []) ++ (b.tm.movdRecent.filter fun p => 2 ≤ p.2).map fun p => (p.1, p.2 - 1))
end

