-- ==== Sys2Proof/Laws/State.lean ====
section
/-! SUPPORT. One lemma per field and update: what the register operations change and keep. -/

namespace Sys2Proof.Machine

variable (s : State) (a b : Acc) (n k : RN) (v : Acc36) (w : Word)

@[simp] theorem andThen_next {α β : Type} (x : α) (f : α → Res β) : andThen (.next x) f = f x := rfl

@[simp] theorem andThen_fault {α β : Type} (x : Fault) (f : α → Res β) : andThen (.fault x) f = .fault x := rfl

@[simp] theorem andThen_refused {α β : Type} (x : Refusal) (f : α → Res β) : andThen (.refused x) f = .refused x := rfl

/-- A computation in two parts answers when both do. -/
theorem andThen_eq_next {α β : Type} {r : Res α} {f : α → Res β} {y : β} :
    andThen r f = .next y ↔ ∃ x, r = .next x ∧ f x = .next y := by
  cases r <;> simp [andThen]

@[simp] theorem checkOperand_none (r : Res State) : checkOperand none r = r := rfl

/-- With a broken operand restriction there is no next state. -/
theorem checkOperand_eq_next {o : Option OperandRule} {r : Res State} {t : State} :
    checkOperand o r = .next t ↔ o = none ∧ r = .next t := by
  cases o with
  | none => simp [checkOperand]
  | some x => cases x <;> simp [checkOperand]

/-! ## Accumulators -/

@[simp] theorem getAcc_setAcc_same : getAcc a (setAcc a v s) = v := by cases a <;> rfl

theorem getAcc_setAcc_of_ne (h : b ≠ a) : getAcc b (setAcc a v s) = getAcc b s := by
  cases a <;> cases b <;> first | rfl | exact absurd rfl h

@[simp] theorem getRN_setAcc : getRN n (setAcc a v s) = getRN n s := by cases a <;> cases n <;> rfl
@[simp] theorem setAcc_pc : (setAcc a v s).pc = s.pc := by cases a <;> rfl
@[simp] theorem setAcc_fl : (setAcc a v s).fl = s.fl := by cases a <;> rfl
@[simp] theorem setAcc_md : (setAcc a v s).md = s.md := by cases a <;> rfl
@[simp] theorem setAcc_shadow : (setAcc a v s).shadow = s.shadow := by cases a <;> rfl
@[simp] theorem setAcc_ctl : (setAcc a v s).ctl = s.ctl := by cases a <;> rfl
@[simp] theorem setAcc_prog : (setAcc a v s).prog = s.prog := by cases a <;> rfl
@[simp] theorem setAcc_data : (setAcc a v s).data = s.data := by cases a <;> rfl
@[simp] theorem setAcc_dpmb : (setAcc a v s).dpmb = s.dpmb := by cases a <;> rfl
@[simp] theorem setAcc_codec : (setAcc a v s).codec = s.codec := by cases a <;> rfl
@[simp] theorem setAcc_ocem : (setAcc a v s).ocem = s.ocem := by cases a <;> rfl
@[simp] theorem setAcc_iuser0 : (setAcc a v s).iuser0 = s.iuser0 := by cases a <;> rfl
@[simp] theorem setAcc_iuser1 : (setAcc a v s).iuser1 = s.iuser1 := by cases a <;> rfl
@[simp] theorem setAcc_tm : (setAcc a v s).tm = s.tm := by cases a <;> rfl
@[simp] theorem setAcc_freeCount : (setAcc a v s).freeCount = s.freeCount := by cases a <;> rfl
@[simp] theorem setAcc_extLog : (setAcc a v s).extLog = s.extLog := by cases a <;> rfl
@[simp] theorem setAcc_armLog : (setAcc a v s).armLog = s.armLog := by cases a <;> rfl
@[simp] theorem setAcc_inputs : (setAcc a v s).inputs = s.inputs := by cases a <;> rfl

/-- An accumulator write leaves the flags that are set beside it. -/
theorem setAcc_with_fl (f : Flags) : setAcc a v { s with fl := f } = { setAcc a v s with fl := f } := by
  cases a <;> rfl

/-! ## Address registers -/

@[simp] theorem getRN_setRN_same : getRN n (setRN n w s) = w := by cases n <;> rfl

theorem getRN_setRN_of_ne (h : k ≠ n) : getRN k (setRN n w s) = getRN k s := by
  cases n <;> cases k <;> first | rfl | exact absurd rfl h

@[simp] theorem getAcc_setRN : getAcc a (setRN n w s) = getAcc a s := by cases a <;> cases n <;> rfl
@[simp] theorem setRN_pc : (setRN n w s).pc = s.pc := by cases n <;> rfl
@[simp] theorem setRN_fl : (setRN n w s).fl = s.fl := by cases n <;> rfl
@[simp] theorem setRN_md : (setRN n w s).md = s.md := by cases n <;> rfl
@[simp] theorem setRN_shadow : (setRN n w s).shadow = s.shadow := by cases n <;> rfl
@[simp] theorem setRN_ctl : (setRN n w s).ctl = s.ctl := by cases n <;> rfl
@[simp] theorem setRN_prog : (setRN n w s).prog = s.prog := by cases n <;> rfl
@[simp] theorem setRN_data : (setRN n w s).data = s.data := by cases n <;> rfl
@[simp] theorem setRN_dpmb : (setRN n w s).dpmb = s.dpmb := by cases n <;> rfl
@[simp] theorem setRN_codec : (setRN n w s).codec = s.codec := by cases n <;> rfl
@[simp] theorem setRN_ocem : (setRN n w s).ocem = s.ocem := by cases n <;> rfl
@[simp] theorem setRN_iuser0 : (setRN n w s).iuser0 = s.iuser0 := by cases n <;> rfl
@[simp] theorem setRN_iuser1 : (setRN n w s).iuser1 = s.iuser1 := by cases n <;> rfl
@[simp] theorem setRN_tm : (setRN n w s).tm = s.tm := by cases n <;> rfl
@[simp] theorem setRN_freeCount : (setRN n w s).freeCount = s.freeCount := by cases n <;> rfl
@[simp] theorem setRN_extLog : (setRN n w s).extLog = s.extLog := by cases n <;> rfl
@[simp] theorem setRN_armLog : (setRN n w s).armLog = s.armLog := by cases n <;> rfl
@[simp] theorem setRN_inputs : (setRN n w s).inputs = s.inputs := by cases n <;> rfl

/-! ## Flags of an update keep the others -/

@[simp] theorem setFlags36_c (f : Flags) : (setFlags36 v f).c = f.c := rfl
@[simp] theorem setFlags36_v (f : Flags) : (setFlags36 v f).v = f.v := rfl
@[simp] theorem setFlags36_l (f : Flags) : (setFlags36 v f).l = f.l := rfl
@[simp] theorem setFlags36_r (f : Flags) : (setFlags36 v f).r = f.r := rfl
@[simp] theorem setFlagsMov_c (f : Flags) : (setFlagsMov v f).c = f.c := rfl
@[simp] theorem setFlagsMov_v (f : Flags) : (setFlagsMov v f).v = f.v := rfl
@[simp] theorem setFlagsMov_l (f : Flags) : (setFlagsMov v f).l = f.l := rfl
@[simp] theorem setFlagsMov_r (f : Flags) : (setFlagsMov v f).r = f.r := rfl
@[simp] theorem setFlagsMov_e (f : Flags) : (setFlagsMov v f).e = f.e := rfl

/-- multiply writes y, x, p and its mark, and nothing else. -/
theorem multiply_frame (ys xs : Bool) (y x : Word) :
    multiply ys xs y x s = { s with regs := { s.regs with
      y := y, x := x, p := (multiply ys xs y x s).regs.p, pUnsigned := !ys && !xs } } := rfl

end Sys2Proof.Machine
end

