-- ==== Sys2Proof/Laws/Flags.lean ====
section
/-! SUPPORT. The flag computations and the shifter as integers: one lemma for each of them. -/

namespace Sys2Proof.Machine

/-! ## Readings of a 36-bit value -/

theorem toInt36_eq (v : Acc36) : v.toInt = if v.toNat < 2 ^ 35 then (v.toNat : Int) else (v.toNat : Int) - 2 ^ 36 := by
  rw [BitVec.toInt_eq_toNat_cond]
  have := v.isLt
  split <;> split <;> omega

theorem msb36_iff (v : Acc36) : v.msb = true ↔ v.toInt < 0 := by
  rw [BitVec.msb_eq_toInt]; simp

theorem msb36_iff_toNat (v : Acc36) : v.msb = true ↔ 2 ^ 35 ≤ v.toNat := by
  rw [BitVec.msb_eq_decide]; simp

theorem eq_zero36_iff (v : Acc36) : (v == 0) = true ↔ v.toInt = 0 := by
  rw [beq_iff_eq, ← BitVec.toInt_inj]; simp

theorem getLsbD36_iff (v : Acc36) (k : Nat) : v.getLsbD k = true ↔ v.toNat / 2 ^ k % 2 = 1 := by
  rw [BitVec.getLsbD, Nat.testBit_eq_decide_div_mod_eq]; simp

/-- fits32 says that the value is a 32-bit signed number. -/
theorem fits32_iff (v : Acc36) : fits32 v = true ↔ -2 ^ 31 ≤ v.toInt ∧ v.toInt < 2 ^ 31 := by
  unfold fits32
  rw [Bool.or_eq_true, beq_iff_eq, beq_iff_eq, ← BitVec.toNat_inj, ← BitVec.toNat_inj, BitVec.extractLsb'_toNat,
    Nat.shiftRight_eq_div_pow, toInt36_eq]
  have := v.isLt
  simp only [BitVec.toNat_ofNat]
  split <;> omega

/-- isNormalized says that the value is zero or uses exactly 32 bits. -/
theorem isNormalized_iff (v : Acc36) : isNormalized v = true ↔
    v.toInt = 0 ∨ (2 ^ 30 ≤ v.toInt ∧ v.toInt < 2 ^ 31) ∨ (-2 ^ 31 ≤ v.toInt ∧ v.toInt < -2 ^ 30) := by
  unfold isNormalized
  rw [Bool.or_eq_true, Bool.and_eq_true, eq_zero36_iff, fits32_iff]
  have h : ((v.getLsbD 31 ^^ v.getLsbD 30) = true) ↔ (v.toNat / 2 ^ 31 % 2 = 1 ↔ ¬ v.toNat / 2 ^ 30 % 2 = 1) := by
    rw [← getLsbD36_iff, ← getLsbD36_iff]
    cases v.getLsbD 31 <;> cases v.getLsbD 30 <;> simp
  rw [h, toInt36_eq]
  have := v.isLt
  split <;> omega

/-! ## Flag updates -/

theorem ZMEN_setFlags36 (v : Acc36) (f : Flags) : ZMEN v (setFlags36 v f) := by
  refine ⟨eq_zero36_iff v, msb36_iff v, ?_, isNormalized_iff v⟩
  rw [← fits32_iff]; cases h : fits32 v <;> simp [setFlags36, h]

theorem ZMN_setFlagsMov (v : Acc36) (f : Flags) : ZMN v f (setFlagsMov v f) :=
  ⟨⟨eq_zero36_iff v, msb36_iff v, decide_eq_true_iff, isNormalized_iff v⟩, rfl⟩

/-- setFlagsArith with the carry and the overflow of an exact result. -/
theorem ArithFlags_setFlagsArith {v : Acc36} {z : Int} {carry : Prop} {c o : Bool} (f : Flags) (hc : c = true ↔ carry)
    (ho : o = true ↔ ¬Fits36 z) : ArithFlags v z carry f (setFlagsArith v c o f) :=
  ⟨ZMEN_setFlags36 v _, hc, ho, rfl, rfl⟩

theorem add_eq_ofInt (a b : Acc36) : a + b = BitVec.ofInt 36 (a.toInt + b.toInt) := by
  rw [BitVec.ofInt_add, BitVec.ofInt_toInt, BitVec.ofInt_toInt]

theorem sub_eq_ofInt (a b : Acc36) : a - b = BitVec.ofInt 36 (a.toInt - b.toInt) := by
  apply BitVec.eq_of_toInt_eq
  rw [BitVec.toInt_sub, BitVec.toInt_ofInt]

theorem addOverflow_iff (a b : Acc36) : addOverflow a b = true ↔ ¬Fits36 (a.toInt + b.toInt) := by
  unfold addOverflow Fits36
  rw [Bool.and_eq_true, beq_iff_eq, bne_iff_ne, ne_eq, Bool.eq_iff_iff (a := a.msb), Bool.eq_iff_iff (a := (a + b).msb),
    msb36_iff_toNat, msb36_iff_toNat, msb36_iff_toNat, BitVec.toNat_add, toInt36_eq, toInt36_eq]
  have := a.isLt
  have := b.isLt
  split <;> split <;> omega

theorem subOverflow_iff (a b : Acc36) : subOverflow a b = true ↔ ¬Fits36 (a.toInt - b.toInt) := by
  unfold subOverflow Fits36
  rw [Bool.and_eq_true, bne_iff_ne, bne_iff_ne, ne_eq, ne_eq, Bool.eq_iff_iff (a := a.msb),
    Bool.eq_iff_iff (a := (a - b).msb), msb36_iff_toNat, msb36_iff_toNat, msb36_iff_toNat, BitVec.toNat_sub, toInt36_eq, toInt36_eq]
  have := a.isLt
  have := b.isLt
  split <;> split <;> omega

/-- The flags of an addition. -/
theorem ArithFlags_setFlagsAdd (a b : Acc36) (f : Flags) :
    ArithFlags (a + b) (a.toInt + b.toInt) (2 ^ 36 ≤ a.toNat + b.toNat) f (setFlagsAdd a b f) :=
  ArithFlags_setFlagsArith f (by simp [addCarry]) (addOverflow_iff a b)

/-- The flags of a subtraction. -/
theorem ArithFlags_setFlagsSub (a b : Acc36) (f : Flags) :
    ArithFlags (a - b) (a.toInt - b.toInt) (a.toNat < b.toNat) f (setFlagsSub a b f) :=
  ArithFlags_setFlagsArith f (by simp [subBorrow]) (subOverflow_iff a b)

/-- The flags of a 16-bit result with C kept. -/
theorem Flags16_setFlags16 (r : Word) (f : Flags) : Flags16 r (f.c = true) f (setFlags16 r f) := by
  refine ⟨?_, ?_, Iff.rfl, rfl, rfl, rfl, rfl, rfl⟩
  · simp [setFlags16, ← BitVec.toNat_inj]
  · simp [setFlags16, BitVec.msb_eq_decide]

/-- The flags of a 16-bit addition. -/
theorem Flags16_setFlagsAddv (v w : Word) (f : Flags) :
    Flags16 (BitVec.ofNat 16 (v.toNat + w.toNat)) (2 ^ 16 ≤ v.toNat + w.toNat) f (setFlagsAddv v w f) := by
  have e : BitVec.ofNat 16 (v.toNat + w.toNat) = v + w := by rw [BitVec.ofNat_add]; simp
  obtain ⟨h1, h2, -, h4⟩ := Flags16_setFlags16 (v + w) f
  rw [e]
  exact ⟨h1, h2, by simp [setFlagsAddv], h4⟩

/-- The flags of a 16-bit subtraction. -/
theorem Flags16_setFlagsSubv (v w : Word) (f : Flags) :
    Flags16 (BitVec.ofInt 16 (v.toNat - w.toNat)) (v.toNat < w.toNat) f (setFlagsSubv v w f) := by
  have e : BitVec.ofInt 16 (v.toNat - w.toNat) = v - w := by
    apply BitVec.eq_of_toNat_eq
    rw [BitVec.toNat_ofInt, BitVec.toNat_sub]
    have := v.isLt
    have := w.isLt
    omega
  obtain ⟨h1, h2, -, h4⟩ := Flags16_setFlags16 (v - w) f
  rw [e]
  exact ⟨h1, h2, by simp [setFlagsSubv], h4⟩

/-! ## Shifts -/

theorem ofInt_eq_of_mod {a b : Int} (h : a % 2 ^ 36 = b % 2 ^ 36) : BitVec.ofInt 36 a = BitVec.ofInt 36 b := by
  apply BitVec.eq_of_toNat_eq
  rw [BitVec.toNat_ofInt, BitVec.toNat_ofInt]
  exact congrArg Int.toNat h

theorem toInt36_mod (v : Acc36) : v.toInt % 2 ^ 36 = v.toNat := by
  rw [toInt36_eq]
  have := v.isLt
  split <;> omega

theorem toInt36_mul_mod (v : Acc36) (k : Int) : v.toInt * k % 2 ^ 36 = v.toNat * k % 2 ^ 36 := by
  apply Int.ModEq.mul_right
  unfold Int.ModEq
  rw [toInt36_mod, Int.emod_eq_of_lt (a := (v.toNat : Int)) (by omega) (by have := v.isLt; omega)]

/-- A left shift multiplies. -/
theorem shiftLeft_eq_ofInt (v : Acc36) (n : Nat) : v <<< n = BitVec.ofInt 36 (v.toInt * 2 ^ n) := by
  apply BitVec.eq_of_toNat_eq
  have e : v.toInt * 2 ^ n % 2 ^ 36 = ((v.toNat * 2 ^ n % 2 ^ 36 : Nat) : Int) := by
    rw [toInt36_mul_mod]
    push_cast
    rfl
  rw [BitVec.toNat_shiftLeft, BitVec.toNat_ofInt, Nat.shiftLeft_eq]
  rw [show (((2 ^ 36 : Nat)) : Int) = 2 ^ 36 from rfl, e]
  rfl

/-- An arithmetic right shift divides and rounds down. -/
theorem sshiftRight_eq_ofInt (v : Acc36) (n : Nat) : v.sshiftRight n = BitVec.ofInt 36 (v.toInt / 2 ^ n) := by
  rw [BitVec.sshiftRight_eq, Int.shiftRight_eq_div_pow]
  push_cast
  rfl

/-- A logical right shift divides the unsigned number. -/
theorem ushiftRight_eq_ofInt (v : Acc36) (n : Nat) : v >>> n = BitVec.ofInt 36 ((v.toNat : Int) / 2 ^ n) := by
  apply BitVec.eq_of_toNat_eq
  rw [BitVec.toNat_ushiftRight, Nat.shiftRight_eq_div_pow, BitVec.toNat_ofInt]
  have h : v.toNat / 2 ^ n < 2 ^ 36 := lt_of_le_of_lt (Nat.div_le_self _ _) v.isLt
  rw [show ((v.toNat : Int) / 2 ^ n) = ((v.toNat / 2 ^ n : Nat) : Int) by push_cast; rfl]
  have h0 := Int.natCast_nonneg (v.toNat / 2 ^ n)
  generalize v.toNat / 2 ^ n = k at *
  omega

theorem shiftResult_arith (v : Acc36) (n : Int) : shiftResult false v n = BitVec.ofInt 36 (shiftExact v.toInt n) := by
  unfold shiftResult shiftExact
  split
  · exact shiftLeft_eq_ofInt _ _
  · exact sshiftRight_eq_ofInt _ _

theorem shiftResult_logical (v : Acc36) (n : Int) : shiftResult true v n = BitVec.ofInt 36 (shiftExact v.toNat n) := by
  unfold shiftResult shiftExact
  split
  · rw [shiftLeft_eq_ofInt]
    apply ofInt_eq_of_mod
    exact toInt36_mul_mod v _
  · exact ushiftRight_eq_ofInt _ _

theorem shiftCarry_iff (v : Acc36) (n : Int) : shiftCarry v n = true ↔ lostBit v n := by
  unfold shiftCarry lostBit
  split
  · rw [show (36 - n).toNat = 36 - n.toNat by omega]
    constructor
    · exact fun h => .inl ⟨‹_›, h⟩
    · rintro (h | h)
      · exact h.2
      · omega
  · split
    · rw [show (-n - 1).toNat = (-n).toNat - 1 by omega]
      constructor
      · exact fun h => .inr ⟨‹_›, h⟩
      · rintro (h | h)
        · omega
        · exact h.2
    · constructor
      · exact fun h => absurd h (by simp)
      · rintro (h | h) <;> omega

theorem shiftOverflow_iff (v : Acc36) (n : Int) (hn : n ≤ 36) :
    shiftOverflow v n = true ↔ ¬Fits36 (shiftExact v.toInt n) := by
  have hv : Fits36 v.toInt := by
    unfold Fits36
    rw [toInt36_eq]
    have := v.isLt
    split <;> omega
  unfold Fits36 at hv
  unfold shiftOverflow shiftExact Fits36
  split
  · rename_i h
    constructor
    · intro h; cases h
    · intro h'
      exfalso
      apply h'
      split
      · have : n = 0 := by omega
        subst this
        simpa using hv
      · have hp : (0 : Int) < 2 ^ (-n).toNat := by positivity
        have h1 : (1 : Int) ≤ 2 ^ (-n).toNat := hp
        constructor
        · rw [Int.le_ediv_iff_mul_le hp]
          nlinarith
        · rw [Int.ediv_lt_iff_lt_mul hp]
          nlinarith
  · rw [if_pos (by omega : 0 ≤ n)]
    split
    · rw [Bool.not_eq_true', ← Bool.not_eq_true, Bool.and_eq_true, decide_eq_true_iff, decide_eq_true_iff]
      have e : (2 : Int) ^ 35 = 2 ^ (35 - n.toNat) * 2 ^ n.toNat := by
        rw [← pow_add]; congr 1; omega
      have hp : (0 : Int) < 2 ^ n.toNat := by positivity
      rw [e, ← neg_mul, Int.mul_le_mul_iff_of_pos_right hp, Int.mul_lt_mul_right hp]
    · have : n = 36 := by omega
      subst this
      rw [bne_iff_ne, ne_eq, ← BitVec.toInt_inj]
      simp
      omega

/-! ## The exponent -/

/-- What the length of the run at the head of a list says. -/
theorem runLength_spec (b : Bool) (l : List Bool) : runLength b l ≤ l.length ∧
    (∀ k < runLength b l, l[k]? = some b) ∧ (∀ x, l[runLength b l]? = some x → x ≠ b) := by
  induction l with
  | nil => simp [runLength]
  | cons x t ih =>
    unfold runLength
    split
    · rename_i h
      rw [beq_iff_eq] at h
      subst h
      refine ⟨?_, ?_, ?_⟩
      · simp only [List.length_cons]; omega
      · intro k hk
        cases k with
        | zero => rfl
        | succ k => exact ih.2.1 k (by omega)
      · rw [Nat.add_comm]
        exact ih.2.2
    · rename_i h
      refine ⟨by simp, by simp, ?_⟩
      intro y hy
      simp only [List.getElem?_cons_zero, Option.some.injEq] at hy
      subst hy
      simpa using h

/-- The bits from `k` up all equal the sign exactly when the value fits `k` bits and a sign. -/
theorem signBits_iff (v : Acc36) (k : Nat) (hk : k ≤ 36) :
    (∀ j, k ≤ j → j < 36 → v.getLsbD j = v.msb) ↔ -2 ^ k ≤ v.toInt ∧ v.toInt < 2 ^ k := by
  have hp : (0 : Int) < 2 ^ k := by positivity
  have hs : (v.sshiftRight k).toInt = v.toInt / 2 ^ k := by
    rw [BitVec.toInt_sshiftRight, Int.shiftRight_eq_div_pow]
    push_cast
    rfl
  have hb : (-2 ^ k ≤ v.toInt ∧ v.toInt < 2 ^ k) ↔ (v.sshiftRight k = 0 ∨ v.sshiftRight k = -1) := by
    rw [← BitVec.toInt_inj, ← BitVec.toInt_inj, hs]
    have e0 : (0 : Acc36).toInt = 0 := by decide
    have e1 : (-1 : Acc36).toInt = -1 := by decide
    rw [e0, e1]
    constructor
    · rintro ⟨h1, h2⟩
      have h3 : -1 ≤ v.toInt / 2 ^ k := (Int.le_ediv_iff_mul_le hp).2 (by omega)
      have h4 : v.toInt / 2 ^ k < 1 := (Int.ediv_lt_iff_lt_mul hp).2 (by omega)
      omega
    · intro h
      have h3 : -1 ≤ v.toInt / 2 ^ k := by omega
      have h4 : v.toInt / 2 ^ k < 1 := by omega
      rw [Int.le_ediv_iff_mul_le hp] at h3
      rw [Int.ediv_lt_iff_lt_mul hp] at h4
      omega
  rw [hb]
  constructor
  · intro h
    have key : ∀ i, i < 36 → (v.sshiftRight k).getLsbD i = v.msb := by
      intro i hi
      rw [BitVec.getLsbD_sshiftRight]
      simp only [show ¬36 ≤ i by omega, decide_false, Bool.not_false, Bool.true_and]
      split
      · rw [Nat.add_comm] at *; exact h _ (by omega) (by omega)
      · rfl
    cases hm : v.msb
    · left
      apply BitVec.eq_of_getLsbD_eq
      intro i hi
      rw [key i hi, hm]; simp
    · right
      apply BitVec.eq_of_getLsbD_eq
      intro i hi
      rw [key i hi, hm, show (-1 : Acc36) = BitVec.allOnes 36 by decide, BitVec.getLsbD_allOnes]
      simp [hi]
  · intro h j hj hj36
    have key : (v.sshiftRight k).getLsbD (j - k) = v.getLsbD j := by
      rw [BitVec.getLsbD_sshiftRight]
      simp only [show ¬36 ≤ j - k by omega, decide_false, Bool.not_false, Bool.true_and]
      rw [show k + (j - k) = j by omega]
      simp [hj36]
    have kmsb : (v.sshiftRight k).msb = v.msb := by simp
    rw [← key, ← kmsb]
    rcases h with h | h <;> rw [h]
    · simp
    · rw [show (-1 : Acc36) = BitVec.allOnes 36 by decide, BitVec.getLsbD_allOnes, BitVec.msb_eq_getLsbD_last,
        BitVec.getLsbD_allOnes]
      simp only [decide_eq_decide]
      omega

/-- The exponent e, -4 to 31: the value fits in 31 - e bits and a sign, and, below 31, not in one bit less. -/
theorem exponent_spec (v : Acc36) : -4 ≤ exponent v ∧ exponent v ≤ 31 ∧ -(2 ^ (31 - exponent v).toNat) ≤ v.toInt ∧
    v.toInt < 2 ^ (31 - exponent v).toNat ∧ (exponent v = 31 ∨
      ¬(-(2 ^ (30 - exponent v).toNat) ≤ v.toInt ∧ v.toInt < 2 ^ (30 - exponent v).toNat)) := by
  unfold exponent
  obtain ⟨h1, h2, h3⟩ := runLength_spec v.msb ((List.range 36).map fun k => v.getLsbD (35 - k))
  generalize runLength v.msb ((List.range 36).map fun k => v.getLsbD (35 - k)) = n at *
  simp only [List.length_map, List.length_range] at h1
  have hn : n ≠ 0 := by
    rintro rfl
    refine h3 (v.getLsbD 35) (by simp) ?_
    rw [BitVec.msb_eq_getLsbD_last]
  have hrun : ∀ j, 36 - n ≤ j → j < 36 → v.getLsbD j = v.msb := by
    intro j hj hj'
    have := h2 (35 - j) (by omega)
    rw [List.getElem?_map, List.getElem?_range (by omega)] at this
    simp only [Option.map_some, Option.some.injEq] at this
    rwa [show 35 - (35 - j) = j by omega] at this
  have hfit := (signBits_iff v (36 - n) (by omega)).1 hrun
  refine ⟨by omega, by omega, ?_, ?_, ?_⟩
  · rw [show (31 - ((n : Int) - 5)).toNat = 36 - n by omega]; exact hfit.1
  · rw [show (31 - ((n : Int) - 5)).toNat = 36 - n by omega]; exact hfit.2
  · by_cases h36 : n = 36
    · left; omega
    · right
      rw [show (30 - ((n : Int) - 5)).toNat = 35 - n by omega, ← signBits_iff v (35 - n) (by omega)]
      intro h
      refine h3 (v.getLsbD (35 - n)) ?_ (h _ (by omega) (by omega))
      rw [List.getElem?_map, List.getElem?_range (by omega)]
      rfl

end Sys2Proof.Machine
end

