-- ==== Sys2Proof/Laws/Memory.lean ====
section
/-! SUPPORT. The memory laws: read after write, the frame of a write, and the canonical form kept by every operation. -/

namespace Sys2Proof.Machine

/-- A key below the first entry of a canonical list is not listed. -/
theorem memByte_lt {m : Mem} {k : Nat} (h : Memory.wf m = true) (hk : ∀ c ∈ m.head?, k < c.1) :
    memByte m k = memUnlisted := by
  induction m with
  | nil => rfl
  | cons c t ih =>
    obtain ⟨j, b⟩ := c
    have hj : k < j := hk (j, b) rfl
    simp only [memByte, Nat.ne_of_gt hj, if_false]
    simp only [Memory.wf, Bool.and_eq_true] at h
    refine ih h.2 ?_
    intro c hc
    cases t with
    | nil => simp at hc
    | cons d u => simp at hc h; subst hc; omega

theorem memByte_setByte_ne (m : Mem) {k j : Nat} (b : BitVec 8) (h : k ≠ j) :
    memByte (memSetByte m j b) k = memByte m k := by
  induction m with
  | nil =>
    simp only [memSetByte]
    split <;> simp [memByte, Ne.symm h]
  | cons c t ih =>
    obtain ⟨i, x⟩ := c
    simp only [memSetByte]
    split
    · split <;> simp [memByte, Ne.symm h]
    · split
      · rename_i hj
        subst hj
        split <;> simp [memByte, Ne.symm h]
      · simp only [memByte, ih]

theorem memByte_setByte_self {m : Mem} (k : Nat) (b : BitVec 8) (hm : Memory.wf m = true) :
    memByte (memSetByte m k b) k = b := by
  induction m with
  | nil =>
    simp only [memSetByte]
    split
    · rename_i h; simp [memByte, h]
    · simp [memByte]
  | cons c t ih =>
    obtain ⟨i, x⟩ := c
    have ht : Memory.wf t = true := by simp only [Memory.wf, Bool.and_eq_true] at hm; exact hm.2
    simp only [memSetByte]
    split
    · rename_i hki
      split
      · rename_i hb
        rw [hb]
        exact memByte_lt hm (by intro c hc; simp at hc; subst hc; exact hki)
      · simp [memByte]
    · split
      · rename_i hki
        subst hki
        split
        · rename_i hb
          rw [hb]
          refine memByte_lt ht ?_
          intro c hc
          cases t with
          | nil => simp at hc
          | cons d u => simp [Memory.wf] at hc hm; subst hc; omega
        · simp [memByte]
      · rename_i h1 h2
        have : i ≠ k := fun h => h2 h.symm
        simp [memByte, this, ih ht]

/-- Every listed key of a byte write is an old key or the written one. -/
theorem mem_setByte {m : Mem} {k : Nat} {b : BitVec 8} {c : Host.Cell} (h : c ∈ memSetByte m k b) :
    c ∈ m ∨ c.1 = k := by
  induction m with
  | nil =>
    simp only [memSetByte] at h
    split at h
    · simp at h
    · simp at h; right; rw [h]
  | cons d t ih =>
    obtain ⟨i, x⟩ := d
    simp only [memSetByte] at h
    split at h
    · split at h
      · exact .inl h
      · simp at h
        rcases h with h | h | h
        · right; rw [h]
        · left; simp [h]
        · left; simp [h]
    · split at h
      · split at h
        · left; simp [h]
        · simp at h
          rcases h with h | h
          · right; rw [h]
          · left; simp [h]
      · simp at h
        rcases h with h | h
        · left; simp [h]
        · rcases ih h with h | h
          · left; simp [h]
          · exact .inr h

theorem wf_tail {c : Host.Cell} {t : Mem} (h : Memory.wf (c :: t) = true) : Memory.wf t = true := by
  obtain ⟨i, x⟩ := c
  simp only [Memory.wf, Bool.and_eq_true] at h
  exact h.2

/-- In a canonical list every key is above the head's. -/
theorem wf_lt {c : Host.Cell} {t : Mem} (h : Memory.wf (c :: t) = true) : ∀ d ∈ t, c.1 < d.1 := by
  induction t generalizing c with
  | nil => simp
  | cons e u ih =>
    intro d hd
    have hce : c.1 < e.1 := by
      obtain ⟨i, x⟩ := c
      obtain ⟨j, y⟩ := e
      simp [Memory.wf] at h
      exact h.1.2
    simp at hd
    rcases hd with rfl | hd
    · exact hce
    · exact Nat.lt_trans hce (ih (wf_tail h) d hd)

theorem wf_cons {c : Host.Cell} {t : Mem} (hb : c.2 ≠ memUnlisted) (ht : Memory.wf t = true)
    (hlt : ∀ d ∈ t, c.1 < d.1) : Memory.wf (c :: t) = true := by
  obtain ⟨i, x⟩ := c
  cases t with
  | nil => simpa [Memory.wf] using hb
  | cons e u =>
    have := hlt e (by simp)
    obtain ⟨j, y⟩ := e
    simp only [Memory.wf, Bool.and_eq_true] at ht ⊢
    exact ⟨⟨by simpa using hb, by simpa using this⟩, ht⟩

/-- A byte write keeps the canonical form. -/
theorem wf_setByte {m : Mem} (k : Nat) (b : BitVec 8) (h : Memory.wf m = true) : Memory.wf (memSetByte m k b) = true := by
  induction m with
  | nil =>
    simp only [memSetByte]
    split
    · rfl
    · rename_i hb; exact wf_cons hb rfl (by simp)
  | cons c t ih =>
    obtain ⟨i, x⟩ := c
    have hx : x ≠ memUnlisted := by simp [Memory.wf] at h; exact h.1.1
    have hlt := wf_lt h
    simp only [memSetByte]
    split
    · rename_i hki
      split
      · exact h
      · rename_i hb
        refine wf_cons hb h ?_
        intro d hd
        simp at hd
        rcases hd with rfl | hd
        · exact hki
        · exact Nat.lt_trans hki (hlt d hd)
    · split
      · rename_i hki
        split
        · exact wf_tail h
        · rename_i hb
          refine wf_cons hb (wf_tail h) ?_
          subst hki
          exact hlt
      · rename_i h1 h2
        refine wf_cons hx (ih (wf_tail h)) ?_
        intro d hd
        rcases mem_setByte hd with hd | hd
        · exact hlt d hd
        · show i < d.1
          omega

/-! ## Words -/

theorem memWord_setWord_self {m : Mem} (a v : Word) (h : Memory.wf m = true) : memWord (memSetWord m a v) a = v := by
  simp only [memWord, memSetWord]
  rw [memByte_setByte_self _ _ (wf_setByte _ _ h), memByte_setByte_ne _ _ (by omega), memByte_setByte_self _ _ h]
  exact BitVec.extractLsb'_append_extractLsb'_eq_extractLsb' (by omega) |>.trans (by simp)

theorem memByte_setWord_ne (m : Mem) (a v : Word) {k : Nat} (h0 : k ≠ 2 * a.toNat) (h1 : k ≠ 2 * a.toNat + 1) :
    memByte (memSetWord m a v) k = memByte m k := by
  simp only [memSetWord]
  rw [memByte_setByte_ne _ _ h1, memByte_setByte_ne _ _ h0]

theorem memWord_setWord_ne (m : Mem) {a b : Word} (v : Word) (h : b ≠ a) : memWord (memSetWord m a v) b = memWord m b := by
  have : b.toNat ≠ a.toNat := fun e => h (BitVec.eq_of_toNat_eq e)
  simp only [memWord]
  rw [memByte_setWord_ne _ _ _ (by omega) (by omega), memByte_setWord_ne _ _ _ (by omega) (by omega)]

/-- A word write keeps the canonical form. -/
theorem wf_setWord {m : Mem} (a v : Word) (h : Memory.wf m = true) : Memory.wf (memSetWord m a v) = true :=
  wf_setByte _ _ (wf_setByte _ _ h)

/-- Every listed key of a word write is an old key or one of the two of the word. -/
theorem mem_setWord {m : Mem} {a v : Word} {c : Host.Cell} (h : c ∈ memSetWord m a v) :
    c ∈ m ∨ c.1 = 2 * a.toNat ∨ c.1 = 2 * a.toNat + 1 := by
  rcases mem_setByte h with h | h
  · rcases mem_setByte h with h | h
    · exact .inl h
    · exact .inr (.inl h)
  · exact .inr (.inr h)

/-- The upload of program words keeps the canonical form. -/
theorem wf_uploadImage (l : List (Word × Word)) {m : Mem} (h : Memory.wf m = true) :
    Memory.wf (uploadImage l m) = true := by
  induction l generalizing m with
  | nil => exact h
  | cons p t ih =>
    simp only [uploadImage]
    split
    · exact ih (wf_setWord _ _ h)
    · exact ih h

/-- A byte of no uploaded word that has a place reads as before. -/
theorem memByte_uploadImage (l : List (Word × Word)) (m : Mem) {j : Nat}
    (h : ∀ p ∈ l, p.1.toNat < 0x6000 → j ≠ 2 * p.1.toNat ∧ j ≠ 2 * p.1.toNat + 1) :
    memByte (uploadImage l m) j = memByte m j := by
  induction l generalizing m with
  | nil => rfl
  | cons p t ih =>
    rw [uploadImage, ih _ fun q hq => h q (List.mem_cons_of_mem _ hq)]
    split
    · rename_i hp
      obtain ⟨h0, h1⟩ := h p List.mem_cons_self (by simpa [progMapped] using hp)
      exact memByte_setWord_ne _ _ _ h0 h1
    · rfl

/-- The last word of an image for an address in program memory is the one read there. -/
theorem memWord_uploadImage (before after : List (Word × Word)) (a x : Word) {m : Mem} (ha : a.toNat < 0x6000)
    (hl : ∀ p ∈ after, p.1 ≠ a) (h : Memory.wf m = true) :
    memWord (uploadImage (before ++ (a, x) :: after) m) a = x := by
  induction before generalizing m with
  | nil =>
    have hne : ∀ p ∈ after, p.1.toNat ≠ a.toNat := fun p hp e => hl p hp (BitVec.eq_of_toNat_eq e)
    have hp : progMapped a = true := by simpa [progMapped] using ha
    rw [List.nil_append, uploadImage, if_pos hp]
    unfold memWord
    rw [memByte_uploadImage _ _ fun p q _ => by have := hne p q; omega,
      memByte_uploadImage _ _ fun p q _ => by have := hne p q; omega]
    exact memWord_setWord_self a x h
  | cons p t ih =>
    rw [List.cons_append, uploadImage]
    split
    · exact ih (wf_setWord _ _ h)
    · exact ih h

/-- A program write keeps the canonical form. -/
theorem progWrite_wf {a v : Word} {s t : State} (h : progWrite a v s = .next t) (hs : Memory.wf s.prog = true) :
    Memory.wf t.prog = true := by
  simp only [progWrite] at h
  split at h
  · cases h; exact wf_setWord _ _ hs
  · cases h

/-- The memories of the reset state have the form. -/
theorem reset_wf : Memory.wf State.reset.prog = true ∧ Memory.wf State.reset.data = true := ⟨rfl, rfl⟩

end Sys2Proof.Machine
end

