-- ==== Sys2Proof/Laws/Ops.lean ====
section
/-! SUPPORT. For each shared operation what it can do: the lemmas the proofs cite instead of unfolding it. -/

namespace Sys2Proof.Machine

/-! ## Emulation module -/

theorem ocemBreak_frame (k : Nat) (s : State) : ocemBreak k s = { s with ocem := (ocemBreak k s).ocem } := rfl

theorem ocemDataBreak_frame (k : Nat) (s : State) : ocemDataBreak k s = { s with ocem := (ocemDataBreak k s).ocem } := rfl

theorem ocemDataWatch_frame (b : State) (dx vx : Nat) (a : Word) (v : Option Word) (s : State) :
    ocemDataWatch b dx vx a v s = { s with ocem := (ocemDataWatch b dx vx a v s).ocem } := by
  unfold ocemDataWatch ocemDataBreak
  dsimp only
  split_ifs <;> rfl

/-- Two changes of the emulation module only are one. -/
theorem ocem_frame_trans {s t u : State} (h : t = { s with ocem := t.ocem }) (h' : u = { t with ocem := u.ocem }) :
    u = { s with ocem := u.ocem } := by
  rw [h'] ; rw [h]

/-- Watching a data access changes the emulation module only. -/
theorem ocemWatch_frame (r : Bool) (a : Word) (v : Option Word) (b s : State) :
    ocemWatch r a v b s = { s with ocem := (ocemWatch r a v b s).ocem } := by
  unfold ocemWatch
  split
  · rfl
  · dsimp only
    have h : ∀ p : Prop, ∀ [Decidable p], (if p then ocemBreak 14 s else s) =
        { s with ocem := (if p then ocemBreak 14 s else s).ocem } := by
      intro p _; split <;> rfl
    cases r
    · exact ocem_frame_trans (h _) (ocemDataWatch_frame ..)
    · exact ocem_frame_trans (h _) (ocemDataWatch_frame ..)

/-- Settling moves stages and loses none. -/
theorem traceSettle_perm (t : List TraceEntry) : (traceSettle t).Perm t := List.filter_append_perm _ t

/-- A push changes the emulation module only and keeps the number of stages; with an unused stage every record stays, and
the new one stands last. -/
theorem tracePush_next (e : TraceEntry) (s : State) (h : s.ocem.trace ≠ []) :
    tracePush e s = { s with ocem := (tracePush e s).ocem } ∧
      (tracePush e s).ocem.trace = (traceSettle s.ocem.trace).tail ++ [e] ∧
      (tracePush e s).ocem.trace.length = s.ocem.trace.length ∧
      (traceUnused ∈ s.ocem.trace → ∀ x ∈ s.ocem.trace, x ≠ traceUnused → x ∈ (tracePush e s).ocem.trace) := by
  have ht : (tracePush e s).ocem.trace = (traceSettle s.ocem.trace).tail ++ [e] := by
    unfold tracePush ocemBreak ocemCause
    dsimp only
    split_ifs <;> rfl
  have hl := (traceSettle_perm s.ocem.trace).length_eq
  have hp := List.length_pos_of_ne_nil h
  refine ⟨?_, ht, ?_, ?_⟩
  · unfold tracePush ocemBreak
    dsimp only
    split_ifs <;> rfl
  · rw [ht, List.length_append, List.length_tail, List.length_singleton]
    omega
  · intro hu x hx hne
    rw [ht, List.mem_append]
    left
    have hm : traceUnused ∈ s.ocem.trace.filter (· == traceUnused) := by simp [hu]
    obtain ⟨y, l, hy⟩ := List.exists_cons_of_ne_nil (List.ne_nil_of_mem hm)
    unfold traceSettle
    rw [hy, List.cons_append, List.tail_cons, List.mem_append]
    exact .inr (by simp [hx, hne])

/-- With no breakpoint enabled the access is not watched. -/
@[simp] theorem ocemWatch_off (r : Bool) (a : Word) (v : Option Word) (b s : State) (h : b.ocem.mode0 = 0) :
    ocemWatch r a v b s = s := by
  simp [ocemWatch, h]

theorem ocemExtWatch_frame (k : Nat) (s : State) : ocemExtWatch k s = { s with ocem := (ocemExtWatch k s).ocem } := by
  unfold ocemExtWatch ocemBreak
  split_ifs <;> rfl

/-! ## Mailbox -/

theorem getLsbD_setBit8 (v : BitVec 8) {k : Nat} (j : Nat) (b : Bool) (hk : k < 8) :
    (setBit8 v k b).getLsbD j = if j = k then b else v.getLsbD j := by
  unfold setBit8
  rcases Nat.lt_or_ge j 8 with h | h
  · interval_cases k <;> interval_cases j <;> cases b <;> simp
  · rw [BitVec.getLsbD_of_ge _ _ h, if_neg (by omega), BitVec.getLsbD_of_ge _ _ h]

/-- What an ARM semaphore operation can do, bit by bit (R524, Table 9). -/
theorem armSemWrite_bits (d : Dpmb) {k : Nat} (j : Nat) (set : Bool) (hk : k < 8) :
    (armSemWrite k set d).sem.getLsbD j = (if j = k then set else d.sem.getLsbD j) ∧
      (armSemWrite k set d).ois.getLsbD j =
        (if j = k then d.ois.getLsbD k || (d.ato.getLsbD k == set && d.oie.getLsbD k) else d.ois.getLsbD j) ∧
      (armSemWrite k set d).ais.getLsbD j =
        (if j = k then d.ais.getLsbD k && (set && d.ato.getLsbD k) else d.ais.getLsbD j) := by
  unfold armSemWrite
  dsimp only
  refine ⟨getLsbD_setBit8 _ _ _ hk, ?_, ?_⟩
  · cases d.ato.getLsbD k == set && d.oie.getLsbD k
    · rw [if_neg (by simp), Bool.or_false]
      split <;> simp_all
    · rw [if_pos rfl, getLsbD_setBit8 _ _ _ hk, Bool.or_true]
  · cases set && d.ato.getLsbD k
    · rw [if_neg (by simp), getLsbD_setBit8 _ _ _ hk, Bool.and_false]
    · rw [if_pos rfl, Bool.and_true]
      split <;> simp_all

/-! ## Data and program memory -/

theorem codecRead_frame (a : Word) (s : State) : (codecRead a s).2 =
    { s with codec := (codecRead a s).2.codec, freeCount := (codecRead a s).2.freeCount } := by
  unfold codecRead codecRxRead
  split <;> try rfl
  split
  · rfl
  · split
    · rfl
    · dsimp only; split_ifs <;> rfl

theorem ocemRead_frame (a : Word) (s : State) : (ocemRead a s).2 = { s with ocem := (ocemRead a s).2.ocem } := by
  unfold ocemRead
  split <;> rfl

/-- A data read changes nothing but the codec, the emulation module and the count of free values. -/
theorem dataRead_frame {a v : Word} {s t : State} (h : dataRead a s = .next (v, t)) :
    t = { s with codec := t.codec, ocem := t.ocem, freeCount := t.freeCount } := by
  unfold dataRead at h
  rw [andThen_eq_next] at h
  obtain ⟨⟨w, u⟩, hr, h⟩ := h
  simp only [Host.Outcome.next.injEq, Prod.mk.injEq] at h
  obtain ⟨rfl, rfl⟩ := h
  have hu : u = { s with codec := u.codec, ocem := u.ocem, freeCount := u.freeCount } := by
    unfold dataReadRaw at hr
    split at hr
    · cases hr; rfl
    · dsimp only at hr
      split at hr <;> (cases hr; rfl)
    · cases hr; rfl
    · have e := codecRead_frame a s
      rw [Host.Outcome.next.inj hr] at e
      dsimp only at e
      rw [e]
    · have e := ocemRead_frame a s
      rw [Host.Outcome.next.inj hr] at e
      dsimp only at e
      rw [e]
    · cases hr
  rw [ocemWatch_frame]
  generalize ocemWatch true a (some w) s u = z
  rw [hu]

/-- The read of a Y-RAM word changes the emulation module only. -/
theorem yRamRead_frame (a : Word) (s : State) : (yRamRead a s).2 = { s with ocem := (yRamRead a s).2.ocem } :=
  ocemWatch_frame ..

/-- The read of a Y-RAM word: it gives the word, and what the emulation module does is `ocemDataBreak` on an address match
enabled alone, and nothing else (R509, R510, log 49). -/
theorem yRamRead_spec (a : Word) (s : State) (ha : ocemIllegalAddr a = false) :
    (yRamRead a s).1 = memWord s.data a ∧
      (yRamRead a s).2 = if !s.ctl.inTrap && (!s.ocem.mode0.getLsbD 4 && (s.ocem.mode0.getLsbD 3 && ocemMatchAddr s.ocem a))
        then ocemDataBreak 1 s else s := by
  refine ⟨rfl, ?_⟩
  dsimp only [yRamRead, ocemWatch, ocemDataWatch]
  by_cases h0 : s.ocem.mode0 = 0#16
  · simp [h0]
  · cases s.ctl.inTrap <;> cases h4 : s.ocem.mode0.getLsbD 4 <;> simp_all

/-- What a data write can do: it changes data memory in the two bytes of the word, the mailbox registers, the codec and
the emulation module, and nothing else. -/
theorem dataWrite_frame {a v : Word} {s t : State} (h : dataWrite a v s = .next t) :
    t = { s with data := t.data, dpmb := t.dpmb, codec := t.codec, ocem := t.ocem } ∧
      (t.data = s.data ∨ t.data = memSetWord s.data (cellOf a) v) ∧
      (dataRegion a = .ram → t.data = memSetWord s.data a v) := by
  unfold dataWrite at h
  rw [andThen_eq_next] at h
  obtain ⟨u, hr, h⟩ := h
  simp only [Host.Outcome.next.injEq] at h
  have hu : u = { s with data := u.data, dpmb := u.dpmb, codec := u.codec, ocem := u.ocem } ∧
      (u.data = s.data ∨ u.data = memSetWord s.data (cellOf a) v) ∧
      (dataRegion a = .ram → u.data = memSetWord s.data a v) := by
    unfold dataWriteRaw at hr
    unfold cellOf
    split at hr <;> rename_i hreg
    · cases hr; exact ⟨rfl, by simp [hreg], by simp⟩
    · dsimp only at hr
      split at hr <;> (cases hr; exact ⟨rfl, by simp [hreg], by simp [hreg]⟩)
    · cases hr; exact ⟨rfl, by simp, by simp [hreg]⟩
    · cases hr; exact ⟨rfl, by simp, by simp [hreg]⟩
    · cases hr; exact ⟨rfl, by simp, by simp [hreg]⟩
    · cases hr
  subst h
  rw [ocemWatch_frame]
  exact ⟨by rw [hu.1], hu.2⟩

/-- A write to a region that exists always answers. -/
theorem dataWrite_mapped (a v : Word) (s : State) (h : dataRegion a ≠ .unmapped) : ∃ t, dataWrite a v s = .next t := by
  unfold dataWrite dataWriteRaw
  split <;> first | exact absurd ‹_› h | ((try dsimp only); (try split)) <;> exact ⟨_, rfl⟩

/-- A read of a region that exists always answers. -/
theorem dataRead_mapped (a : Word) (s : State) (h : dataRegion a ≠ .unmapped) : ∃ v t, dataRead a s = .next (v, t) := by
  unfold dataRead dataReadRaw
  split <;> first | exact absurd ‹_› h | ((try dsimp only); (try split)) <;> exact ⟨_, _, rfl⟩

/-- The bytes outside the word a data write addresses read as before, in canonical form or not. -/
theorem dataWrite_byte {a v : Word} {s t : State} (h : dataWrite a v s = .next t) {k : Nat}
    (h0 : k ≠ 2 * (cellOf a).toNat) (h1 : k ≠ 2 * (cellOf a).toNat + 1) : memByte t.data k = memByte s.data k := by
  rcases (dataWrite_frame h).2.1 with e | e <;> rw [e]
  exact memByte_setWord_ne _ _ _ h0 h1

/-- A data write keeps the canonical form. -/
theorem dataWrite_wf {a v : Word} {s t : State} (h : dataWrite a v s = .next t) (hs : Memory.wf s.data = true) :
    Memory.wf t.data = true := by
  rcases (dataWrite_frame h).2.1 with e | e <;> rw [e]
  · exact hs
  · exact wf_setWord _ _ hs

theorem dataWrite_ram {a v : Word} {s t : State} (h : dataWrite a v s = .next t) (hr : dataRegion a = .ram)
    (hs : Memory.wf s.data = true) : memWord t.data a = v := by
  rw [(dataWrite_frame h).2.2 hr]
  exact memWord_setWord_self _ _ hs

/-! ## Unmapped addresses and program memory -/

@[simp] theorem unmappedRead_refuse (f : Fault) (s : State) : unmappedRead .refuse f s = .fault f := rfl
@[simp] theorem unmappedRead_anyValue (f : Fault) (s : State) : unmappedRead .anyValue f s = .next (freeRead s) := rfl
@[simp] theorem unmappedWrite_refuse (f : Fault) (s : State) : unmappedWrite .refuse f s = .fault f := rfl
@[simp] theorem unmappedWrite_anyValue (f : Fault) (s : State) : unmappedWrite .anyValue f s = .next s := rfl

theorem progRead_mapped {a : Word} (s : State) (h : progMapped a = true) :
    progRead a s = .next (memWord s.prog a, s) := by simp [progRead, h]

theorem progRead_unmapped {a : Word} (s : State) (h : progMapped a = false) :
    progRead a s = unmappedRead Config.unmappedProg .unmappedProg s := by simp [progRead, h]

/-- A program read changes nothing but the count of free values, whatever UNMAPPED_PROG says. -/
theorem progRead_frame {a v : Word} {s t : State} (h : progRead a s = .next (v, t)) :
    t = { s with freeCount := t.freeCount } := by
  unfold progRead at h
  split at h
  · cases h; rfl
  · unfold unmappedRead at h
    split at h
    · cases h
    · cases h; rfl

/-! ## Block repeat -/

@[simp] theorem leaveAll_ctl (s : State) :
    (leaveAll s).ctl = { s.ctl with lp := false, bc := 0, bkSaved := [], lpClear := none } := rfl

theorem applyLpClear_none (n : BitVec 3) (s : State) (h : s.ctl.lpClear = none) : applyLpClear n s = s := by
  simp [applyLpClear, h]

theorem applyLpClear_some (n : BitVec 3) (s : State) (h : s.ctl.lpClear = some n) : applyLpClear n s = leaveAll s := by
  simp [applyLpClear, h]

theorem applyLpClear_frame (n : BitVec 3) (s : State) : applyLpClear n s = { s with ctl := (applyLpClear n s).ctl } := by
  unfold applyLpClear
  split_ifs <;> rfl

/-- The end of a level changes lc and the loop state only. -/
theorem endBlock_frame (s : State) : endBlock s =
    { s with regs := { s.regs with lc := (endBlock s).regs.lc }, ctl := (endBlock s).ctl } := by
  unfold endBlock
  rw [applyLpClear_frame]
  unfold leaveBlock popBlock
  split_ifs
  · rfl
  · dsimp only
    split <;> rfl

/-! ## The ARM's accesses -/

/-- What an ARM read finds changes the count of free values only. -/
theorem armHalf_frame (o : BitVec 10) (s : State) :
    (armHalf o s).2 = { s with freeCount := (armHalf o s).2.freeCount } := by
  unfold armHalf freeRead
  dsimp only
  split_ifs <;> rfl

/-- What an ARM write stores changes the mailbox only: one of its words, or its registers. -/
theorem armStore_frame (o : BitVec 10) (v : Word) (s : State) :
    armStore o v s = { s with data := (armStore o v s).data, dpmb := (armStore o v s).dpmb } ∧
      ((armStore o v s).data = s.data ∨ (armStore o v s).data = memSetWord s.data (mailboxAddr (o.extractLsb' 1 8)) v) := by
  unfold armStore
  dsimp only
  split_ifs <;> simp

/-! ## Post-modification -/

/-- A post-modification changes its register and, in modulo mode outside the constraints, the count of free values. -/
theorem postMod_frame (n : RN) (m : PostMod) (d : Bool) (s : State) :
    postMod n m d s = setRN n (getRN n (postMod n m d s)) { s with freeCount := (postMod n m d s).freeCount } := by
  unfold postMod
  dsimp only
  split_ifs <;> cases n <;> rfl

@[simp] theorem postMod_getRN_ne (n k : RN) (m : PostMod) (d : Bool) (s : State) (h : k ≠ n) :
    getRN k (postMod n m d s) = getRN k s := by
  rw [postMod_frame, getRN_setRN_of_ne _ _ _ _ h]; cases k <;> rfl

@[simp] theorem postMod_pc (n : RN) (m : PostMod) (d : Bool) (s : State) : (postMod n m d s).pc = s.pc := by
  rw [postMod_frame]; simp
@[simp] theorem postMod_fl (n : RN) (m : PostMod) (d : Bool) (s : State) : (postMod n m d s).fl = s.fl := by
  rw [postMod_frame]; simp
@[simp] theorem postMod_md (n : RN) (m : PostMod) (d : Bool) (s : State) : (postMod n m d s).md = s.md := by
  rw [postMod_frame]; simp
@[simp] theorem postMod_data (n : RN) (m : PostMod) (d : Bool) (s : State) : (postMod n m d s).data = s.data := by
  rw [postMod_frame]; simp
@[simp] theorem postMod_prog (n : RN) (m : PostMod) (d : Bool) (s : State) : (postMod n m d s).prog = s.prog := by
  rw [postMod_frame]; simp
@[simp] theorem postMod_ctl (n : RN) (m : PostMod) (d : Bool) (s : State) : (postMod n m d s).ctl = s.ctl := by
  rw [postMod_frame]; simp
@[simp] theorem postMod_ocem (n : RN) (m : PostMod) (d : Bool) (s : State) : (postMod n m d s).ocem = s.ocem := by
  rw [postMod_frame]; simp
@[simp] theorem postMod_dpmb (n : RN) (m : PostMod) (d : Bool) (s : State) : (postMod n m d s).dpmb = s.dpmb := by
  rw [postMod_frame]; simp
@[simp] theorem postMod_codec (n : RN) (m : PostMod) (d : Bool) (s : State) : (postMod n m d s).codec = s.codec := by
  rw [postMod_frame]; simp

/-! ## Reading registers -/

/-- Reading a register changes only the log of the ports, the count of free values and the emulation module. -/
theorem readReg_frame (r : Reg) (s : State) : (readReg r s).2 =
    { s with ocem := (readReg r s).2.ocem, extLog := (readReg r s).2.extLog, freeCount := (readReg r s).2.freeCount } := by
  unfold readReg
  split
  · unfold extRead
    dsimp only
    rw [ocemExtWatch_frame]
  · rfl

/-- The same for a move, which may also set L. -/
theorem readRegSat_frame (r : Reg) (s : State) : (readRegSat r s).2 =
    { s with
      fl := { s.fl with l := (readRegSat r s).2.fl.l }
      ocem := (readRegSat r s).2.ocem
      extLog := (readRegSat r s).2.extLog
      freeCount := (readRegSat r s).2.freeCount } := by
  unfold readRegSat
  split
  · unfold satRead
    dsimp only
    split_ifs <;> rfl
  · have := readReg_frame r s
    rw [this]

theorem satRead_frame (a : Acc) (h : Half) (s : State) :
    (satRead a h s).2 = { s with fl := { s.fl with l := (satRead a h s).2.fl.l } } := by
  unfold satRead
  dsimp only
  split_ifs <;> rfl

/-! ## Stack and exceptions -/

/-- What push can do. -/
theorem push_next {v : Word} {s t : State} (h : push v s = .next t) :
    t.regs = { s.regs with sp := s.regs.sp - 1 } ∧ t.pc = s.pc ∧ t.fl = s.fl ∧ t.md = s.md ∧ t.ctl = s.ctl ∧
      t.prog = s.prog ∧
      (t.data = s.data ∨ t.data = memSetWord s.data (cellOf (s.regs.sp - 1)) v) := by
  have := dataWrite_frame h
  refine ⟨?_, ?_, ?_, ?_, ?_, ?_, this.2.1⟩ <;> rw [this.1]

/-- What pop can do. -/
theorem popWord_next {v : Word} {s t : State} (h : popWord s = .next (v, t)) :
    ∃ u, dataRead s.regs.sp s = .next (v, u) ∧ t = { u with regs := { u.regs with sp := s.regs.sp + 1 } } ∧
      t.regs = { s.regs with sp := s.regs.sp + 1 } := by
  unfold popWord at h
  rw [andThen_eq_next] at h
  obtain ⟨⟨w, u⟩, hr, h⟩ := h
  simp only [Host.Outcome.next.injEq, Prod.mk.injEq] at h
  obtain ⟨rfl, rfl⟩ := h
  have e : u.regs = s.regs := by rw [dataRead_frame hr]
  exact ⟨u, hr, by rw [e], by rw [e]⟩

/-- Taking an exception: the program counter is pushed, the program counter goes to the vector, and then only TRAP/BI
touches dvm and in_trap, only a maskable interrupt touches IE, and, with its context enable, the switched fields. -/
theorem takeException_next {e : Event} {s u : State} (h : takeException e s = .next u) :
    ∃ w, push s.pc { s with ctl := suspendRepeat s.ctl s.regs.repc } = .next w ∧ u.pc = vectorOf e ∧
      (e = .trapBi → u = { w with
        regs := { w.regs with dvm := s.pc }, ctl := { w.ctl with inTrap := true }, pc := 0x0002#16 }) ∧
      (e ≠ .trapBi → u =
        { (if contextOn e s then contextStore { w with md := { w.md with ie := false } }
          else { w with md := { w.md with ie := false } }) with pc := vectorOf e }) := by
  unfold takeException at h
  rw [andThen_eq_next] at h
  obtain ⟨w, hw, h⟩ := h
  cases e <;> (cases h; exact ⟨w, hw, rfl, by simp [vectorOf], by simp⟩)

/-- A return to the address of a suspended repeat resumes it; any other only loads the program counter. -/
theorem returnTo_frame (v : Word) (s : State) : returnTo v s =
    { s with
      pc := v
      regs := { s.regs with repc := (returnTo v s).regs.repc }
      ctl := (returnTo v s).ctl } := by
  unfold returnTo
  split_ifs <;> rfl

end Sys2Proof.Machine
end

