-- ==== Sys2Proof/Laws/Frame.lean ====
section
/-! SUPPORT. Frames: what reading an operand keeps, and what writing a result keeps. -/

namespace Sys2Proof.Machine

/-- Reading operands took `s` to `t`: no register outside the list, no flag, nothing of the system state, no byte of
memory and not the program counter changed. -/
structure Operand (ch : List Place) (s t : State) : Prop where
  regs : SameRegsBut ch s t
  pc : t.pc = s.pc
  fl : t.fl = s.fl
  system : SameSystem s t
  memory : SameMemory s t

theorem sameRegsBut_refl (ch : List Place) (s : State) : SameRegsBut ch s s := fun _ _ => rfl

theorem sameSystem_refl (s : State) : SameSystem s s := ⟨rfl, rfl, rfl, rfl, rfl, rfl, rfl, rfl, rfl⟩

theorem sameMemory_refl (s : State) : SameMemory s s := ⟨fun _ => rfl, fun _ => rfl⟩

theorem sameDevices_refl (s : State) : SameDevices s s := ⟨rfl, rfl, rfl, rfl⟩

theorem operand_refl (s : State) : Operand [] s s :=
  ⟨sameRegsBut_refl _ s, rfl, rfl, sameSystem_refl s, sameMemory_refl s⟩

theorem sameRegsBut_trans {a b : List Place} {s t u : State} (h : SameRegsBut a s t) (h' : SameRegsBut b t u) :
    SameRegsBut (a ++ b) s u := fun q hq =>
  (h' q fun x => hq (List.mem_append.2 (.inr x))).trans (h q fun x => hq (List.mem_append.2 (.inl x)))

theorem sameSystem_trans {s t u : State} (h : SameSystem s t) (h' : SameSystem t u) : SameSystem s u :=
  ⟨h'.1.trans h.1, h'.2.1.trans h.2.1, h'.2.2.1.trans h.2.2.1, h'.2.2.2.1.trans h.2.2.2.1,
    h'.2.2.2.2.1.trans h.2.2.2.2.1, h'.2.2.2.2.2.1.trans h.2.2.2.2.2.1, h'.2.2.2.2.2.2.1.trans h.2.2.2.2.2.2.1,
    h'.2.2.2.2.2.2.2.1.trans h.2.2.2.2.2.2.2.1, h'.2.2.2.2.2.2.2.2.trans h.2.2.2.2.2.2.2.2⟩

theorem sameMemory_trans {s t u : State} (h : SameMemory s t) (h' : SameMemory t u) : SameMemory s u :=
  ⟨fun k => (h'.1 k).trans (h.1 k), fun k => (h'.2 k).trans (h.2 k)⟩

theorem operand_trans {a b : List Place} {s t u : State} (h : Operand a s t) (h' : Operand b t u) : Operand (a ++ b) s u :=
  ⟨sameRegsBut_trans h.regs h'.regs, h'.pc.trans h.pc, h'.fl.trans h.fl, sameSystem_trans h.system h'.system,
    sameMemory_trans h.memory h'.memory⟩

/-- The state but for the devices. -/
theorem operand_devices (s : State) (c : Codec) (o : Ocem) (e : List ExtAccess) (k : Nat) :
    Operand [] s { s with codec := c, ocem := o, extLog := e, freeCount := k } :=
  ⟨fun q _ => by cases q <;> rfl, rfl, rfl, ⟨rfl, rfl, rfl, rfl, rfl, rfl, rfl, rfl, rfl⟩,
    ⟨fun _ => rfl, fun _ => rfl⟩⟩

/-- A data read keeps everything but the devices. -/
theorem operand_read {a v : Word} {s t : State} (h : Reads a s v t) : Operand [] s t := by
  rw [dataRead_frame h]
  exact operand_devices s t.codec t.ocem s.extLog t.freeCount

theorem operand_readReg (r : Reg) (s : State) : Operand [] s (readReg r s).2 := by
  rw [readReg_frame]
  exact operand_devices s s.codec _ _ _

/-- A change of one register outside the system state. -/
theorem operand_setRN (n : RN) (w : Word) (k : Nat) (s : State) : Operand [.rn n] s (setRN n w { s with freeCount := k }) := by
  refine ⟨?_, by simp, by simp, by simp [SameSystem], by simp [SameMemory]⟩
  intro q hq
  cases q with
  | rn x =>
    have hx : x ≠ n := fun e => hq (by simp [e])
    simp only [Place.value, getRN_setRN_of_ne _ _ _ _ hx]
    cases x <;> rfl
  | acc x => simp only [Place.value, getAcc_setRN]; cases x <;> rfl
  | _ => cases n <;> rfl

theorem operand_postMod (n : RN) (m : PostMod) (d : Bool) (s : State) : Operand [.rn n] s (postMod n m d s) := by
  rw [postMod_frame]
  exact operand_setRN n _ _ s

/-- A data read at the address before the post-modification. -/
theorem operand_ind {n : RN} {m : PostMod} {a v : Word} {s t : State} (h : Reads a (postMod n m false s) v t) :
    Operand [.rn n] s t ∧ getRN n t = getRN n (postMod n m false s) ∧ t.regs = (postMod n m false s).regs := by
  refine ⟨operand_trans (operand_postMod n m false s) (operand_read h), ?_, ?_⟩ <;> rw [dataRead_frame h]
  cases n <;> rfl

/-- rJ points into Y-RAM (R83, R93). -/
theorem inYRam_iff (r : Word) : (r.extractLsb' 11 5 == 31#5) = true ↔ 0xF800 ≤ r.toNat := by
  rw [beq_iff_eq, ← BitVec.toNat_inj, BitVec.extractLsb'_toNat, Nat.shiftRight_eq_div_pow, BitVec.toNat_ofNat]
  omega

/-- A pointer into Y-RAM is its own Y address (R93). -/
theorem yAddr_self (r : Word) (h : 0xF800 ≤ r.toNat) : yAddr r = r := by
  unfold yAddr
  rw [← BitVec.toNat_inj, BitVec.toNat_add, BitVec.toNat_setWidth, BitVec.extractLsb'_toNat, Nat.shiftRight_zero,
    BitVec.toNat_ofNat]
  omega

/-- What reading the Y operand can do: it always answers, with the word of Y-RAM or, elsewhere, a free one. -/
theorem readY_next (j : RJ) (m : PostMod) (s : State) :
    readY j m s = .next (if 0xF800 ≤ (getRN (rnOfJ j) s).toNat
      then yRamRead (getRN (rnOfJ j) s) (postMod (rnOfJ j) m false s)
      else freeRead (postMod (rnOfJ j) m false s)) := by
  simp only [readY, inYRam_iff]
  split <;> rename_i h
  · rw [yAddr_self _ h]
  · rfl

/-- Reading the Y operand post-modifies rJ and touches the devices at most. -/
theorem operand_readY {j : RJ} {m : PostMod} {v : Word} {s t : State} (h : readY j m s = .next (v, t)) :
    Operand [.rn (rnOfJ j)] s t ∧ t.regs = (postMod (rnOfJ j) m false s).regs := by
  rw [readY_next] at h
  have e := congrArg Prod.snd (Host.Outcome.next.inj h)
  dsimp only at e
  subst e
  split
  · rw [yRamRead_frame]
    exact ⟨operand_trans (operand_postMod _ m false s) (operand_devices _ _ _ _ _), rfl⟩
  · exact ⟨operand_trans (operand_postMod _ m false s) (operand_devices _ _ _ _ _), rfl⟩

theorem readsRegs {a v : Word} {s t : State} (h : Reads a s v t) : t.regs = s.regs := by
  rw [dataRead_frame h]

theorem readReg_regs (r : Reg) (s : State) : (readReg r s).2.regs = s.regs := by rw [readReg_frame]

/-- Reading a register with limiting changes at most L among the flags. -/
theorem readRegSat_keeps (r : Reg) (s : State) :
    SameRegsBut [] s (readRegSat r s).2 ∧ (readRegSat r s).2.pc = s.pc ∧ SameSystem s (readRegSat r s).2 ∧
      SameMemory s (readRegSat r s).2 ∧ (readRegSat r s).2.regs = s.regs := by
  rw [readRegSat_frame]
  refine ⟨fun q _ => ?_, rfl, ⟨rfl, rfl, rfl, rfl, rfl, rfl, rfl, rfl, rfl⟩, ⟨fun _ => rfl, fun _ => rfl⟩, rfl⟩
  cases q <;> rfl

/-- Writing a result: the accumulator takes it, and only the flags change besides. -/
theorem keeps_writeResult {ch : List Place} {s t : State} (h : Operand ch s t) (a : Acc) (v : Acc36)
    (f : Flags → Flags) : Keeps (.acc a :: ch) s t (writeResult a v f t) := by
  unfold writeResult
  refine ⟨?_, by simp [h.pc], ?_, ?_, by simp [SameDevices]⟩
  · intro q hq
    have hr := h.regs q fun x => hq (List.mem_cons_of_mem _ x)
    cases q with
    | acc x =>
      have hx : x ≠ a := fun e => hq (by simp [e])
      simp only [Place.value] at hr ⊢
      rw [getAcc_setAcc_of_ne _ _ _ _ hx, ← hr]
      cases x <;> rfl
    | rn x =>
      simp only [Place.value] at hr ⊢
      rw [getRN_setAcc, ← hr]
      cases x <;> rfl
    | _ => rw [← hr]; cases a <;> rfl
  · simpa [SameSystem] using h.system
  · simpa [SameMemory] using h.memory

@[simp] theorem getAcc_writeResult (a : Acc) (v : Acc36) (f : Flags → Flags) (s : State) :
    getAcc a (writeResult a v f s) = v := by simp [writeResult]

@[simp] theorem writeResult_fl (a : Acc) (v : Acc36) (f : Flags → Flags) (s : State) :
    (writeResult a v f s).fl = f s.fl := by simp [writeResult]

@[simp] theorem getRN_writeResult (n : RN) (a : Acc) (v : Acc36) (f : Flags → Flags) (s : State) :
    getRN n (writeResult a v f s) = getRN n s := by
  simp only [writeResult, getRN_setAcc]
  cases n <;> rfl

/-- Changing flags only. -/
theorem keeps_flags {ch : List Place} {s t : State} (h : Operand ch s t) (f : Flags) : Keeps ch s t { t with fl := f } := by
  refine ⟨fun q hq => ?_, h.pc, h.system, h.memory, sameDevices_refl t⟩
  rw [← h.regs q hq]
  cases q <;> rfl

/-- Multiplying changes y, x and p besides. -/
theorem keeps_multiply {ch : List Place} {s t u : State} (h : Keeps ch s t u) (ys xs : Bool) (y x : Word) :
    Keeps (.y :: .x :: .p :: ch) s t (multiply ys xs y x u) := by
  obtain ⟨h1, h2, h3, h4, h5⟩ := h
  refine ⟨fun q hq => ?_, h2, h3, h4, h5⟩
  simp only [List.mem_cons, not_or] at hq
  rw [← h1 q hq.2.2.2]
  cases q with
  | y => exact absurd rfl hq.1
  | x => exact absurd rfl hq.2.1
  | p => exact absurd rfl hq.2.2.1
  | acc z => cases z <;> rfl
  | rn z => cases z <;> rfl
  | _ => rfl

/-- The order and the repetition of the listed registers do not matter. -/
theorem keeps_mono {a b : List Place} {s t u : State} (h : Keeps a s t u) (hab : ∀ q ∈ a, q ∈ b) : Keeps b s t u :=
  ⟨fun q hq => h.1 q fun x => hq (hab q x), h.2⟩

end Sys2Proof.Machine
end

