-- ==== Sys2Proof/Laws/Hazards.lean ====
section
/-! SUPPORT. What the order rules of Machine/Hazards.lean read from program memory, in the words of Safety.lean. -/

namespace Sys2Proof.Machine

theorem instrInfo_words (i : Instr) : (instrInfo i).words = 1 ∨ (instrInfo i).words = 2 := by
  cases i <;> simp [instrInfo, infoPlain, infoTwo]

theorem instrAt_iff {m : Mem} {a : Word} {i : Instr} : instrAt m a = some i ↔ Holds m a i := by
  unfold instrAt Holds
  cases decode (memWord m a) (memWord m (a + 1)) <;> simp [Except.toOption]

/-- `EndsWith` by its first instruction. -/
theorem endsWith_iff {m : Mem} {n : Nat} {a : Word} {i : Instr} : EndsWith m n a i ↔ ∃ j, Holds m a j ∧
    ((n = (instrInfo j).words ∧ i = j) ∨
      ∃ k, 0 < k ∧ n = (instrInfo j).words + k ∧ EndsWith m k (a + BitVec.ofNat 16 (instrInfo j).words) i) := by
  constructor
  · rintro (⟨hi⟩ | ⟨hj, hn, h⟩)
    · exact ⟨i, hi, .inl ⟨rfl, rfl⟩⟩
    · exact ⟨_, hj, .inr ⟨_, hn, rfl, h⟩⟩
  · rintro ⟨j, hj, ⟨rfl, rfl⟩ | ⟨k, hk, rfl, h⟩⟩
    · exact .here hj
    · exact .later hj hk h

theorem holds_inj {m : Mem} {a : Word} {i j : Instr} (hi : Holds m a i) (hj : Holds m a j) : i = j :=
  Option.some.inj ((instrAt_iff.2 hi).symm.trans (instrAt_iff.2 hj))

/-- `lastInstr` finds the last of `n` words exactly when they are instructions in sequence. -/
theorem lastInstr_iff {m : Mem} {i : Instr} (n : Nat) (a : Word) : lastInstr m n a = some i ↔ EndsWith m n a i := by
  induction n using Nat.strong_induction_on generalizing a with
  | _ n ih =>
    rw [endsWith_iff]
    cases n with
    | zero =>
      refine ⟨fun h => by simp [lastInstr] at h, ?_⟩
      rintro ⟨j, -, ⟨h, -⟩ | ⟨k, -, h, -⟩⟩ <;> rcases instrInfo_words j with w | w <;> omega
    | succ n =>
      rw [lastInstr.eq_def]
      dsimp only
      cases hj : instrAt m a with
      | none =>
        refine ⟨nofun, ?_⟩
        rintro ⟨j, h, -⟩
        exact nomatch (instrAt_iff.2 h).symm.trans hj
      | some j =>
        have hj := instrAt_iff.1 hj
        have only : (∃ j', Holds m a j' ∧ ((n + 1 = (instrInfo j').words ∧ i = j') ∨
              ∃ k, 0 < k ∧ n + 1 = (instrInfo j').words + k ∧ EndsWith m k (a + BitVec.ofNat 16 (instrInfo j').words) i)) ↔
            ((n + 1 = (instrInfo j).words ∧ i = j) ∨
              ∃ k, 0 < k ∧ n + 1 = (instrInfo j).words + k ∧ EndsWith m k (a + BitVec.ofNat 16 (instrInfo j).words) i) :=
          ⟨fun ⟨j', h', h⟩ => holds_inj h' hj ▸ h, fun h => ⟨j, hj, h⟩⟩
        rw [only]
        dsimp only
        rcases instrInfo_words j with w | w
        · rw [w, if_neg (by decide)]
          split
          · subst n
            refine ⟨fun h => .inl ⟨rfl, (Option.some.inj h).symm⟩, ?_⟩
            rintro (⟨-, rfl⟩ | ⟨k, hk, h, -⟩)
            · rfl
            · omega
          · rw [ih n (by omega)]
            refine ⟨fun h => .inr ⟨n, by omega, by omega, h⟩, ?_⟩
            rintro (⟨h, -⟩ | ⟨k, -, h, h'⟩)
            · omega
            · obtain rfl : k = n := by omega
              exact h'
        · rw [w, if_pos rfl]
          split
          · refine ⟨nofun, ?_⟩
            rintro (⟨h, -⟩ | ⟨k, hk, h, -⟩) <;> omega
          · split
            · subst_vars
              refine ⟨fun h => .inl ⟨rfl, (Option.some.inj h).symm⟩, ?_⟩
              rintro (⟨-, rfl⟩ | ⟨k, hk, h, -⟩)
              · rfl
              · omega
            · rename_i k _
              rw [ih k (by omega)]
              refine ⟨fun h => .inr ⟨k, by omega, by omega, h⟩, ?_⟩
              rintro (⟨h, -⟩ | ⟨k', -, h, h'⟩)
              · omega
              · obtain rfl : k' = k := by omega
                exact h'

end Sys2Proof.Machine
end

