-- ==== Sys2Proof/Laws/PerInstr.lean ====
section
/-! SUPPORT. Facts about every instruction, one lemma per constructor. -/

/-- An instruction is encoded in as many words as the sequencing moves the program counter past (R130). -/
def Sys2Proof.Laws.EncodeLength.Statement (i : Sys2Proof.Instr) : Prop :=
  (Sys2Proof.encode i).length = (Sys2Proof.Machine.instrInfo i).words

namespace Sys2Proof.Laws.EncodeLength

theorem orDirect (a : AccA) (d : BitVec 8) : Statement (.orDirect a d) := rfl
theorem orInd (a : AccA) (n : RN) (m : PostMod) : Statement (.orInd a n m) := rfl
theorem orReg (a : AccA) (r : Reg) : Statement (.orReg a r) := rfl
theorem andDirect (a : AccA) (d : BitVec 8) : Statement (.andDirect a d) := rfl
theorem andInd (a : AccA) (n : RN) (m : PostMod) : Statement (.andInd a n m) := rfl
theorem andReg (a : AccA) (r : Reg) : Statement (.andReg a r) := rfl
theorem xorDirect (a : AccA) (d : BitVec 8) : Statement (.xorDirect a d) := rfl
theorem xorInd (a : AccA) (n : RN) (m : PostMod) : Statement (.xorInd a n m) := rfl
theorem xorReg (a : AccA) (r : Reg) : Statement (.xorReg a r) := rfl
theorem addDirect (a : AccA) (d : BitVec 8) : Statement (.addDirect a d) := rfl
theorem addInd (a : AccA) (n : RN) (m : PostMod) : Statement (.addInd a n m) := rfl
theorem addReg (a : AccA) (r : Reg) : Statement (.addReg a r) := rfl
theorem tst0AccDirect (a : AccA) (d : BitVec 8) : Statement (.tst0AccDirect a d) := rfl
theorem tst0AccInd (a : AccA) (n : RN) (m : PostMod) : Statement (.tst0AccInd a n m) := rfl
theorem tst0AccReg (a : AccA) (r : Reg) : Statement (.tst0AccReg a r) := rfl
theorem tst1AccDirect (a : AccA) (d : BitVec 8) : Statement (.tst1AccDirect a d) := rfl
theorem tst1AccInd (a : AccA) (n : RN) (m : PostMod) : Statement (.tst1AccInd a n m) := rfl
theorem tst1AccReg (a : AccA) (r : Reg) : Statement (.tst1AccReg a r) := rfl
theorem cmpDirect (a : AccA) (d : BitVec 8) : Statement (.cmpDirect a d) := rfl
theorem cmpInd (a : AccA) (n : RN) (m : PostMod) : Statement (.cmpInd a n m) := rfl
theorem cmpReg (a : AccA) (r : Reg) : Statement (.cmpReg a r) := rfl
theorem subDirect (a : AccA) (d : BitVec 8) : Statement (.subDirect a d) := rfl
theorem subInd (a : AccA) (n : RN) (m : PostMod) : Statement (.subInd a n m) := rfl
theorem subReg (a : AccA) (r : Reg) : Statement (.subReg a r) := rfl
theorem msuDirect (a : AccA) (d : BitVec 8) : Statement (.msuDirect a d) := rfl
theorem msuInd (a : AccA) (n : RN) (m : PostMod) : Statement (.msuInd a n m) := rfl
theorem msuReg (a : AccA) (r : Reg) : Statement (.msuReg a r) := rfl
theorem addhDirect (a : AccA) (d : BitVec 8) : Statement (.addhDirect a d) := rfl
theorem addhInd (a : AccA) (n : RN) (m : PostMod) : Statement (.addhInd a n m) := rfl
theorem addhReg (a : AccA) (r : Reg) : Statement (.addhReg a r) := rfl
theorem addlDirect (a : AccA) (d : BitVec 8) : Statement (.addlDirect a d) := rfl
theorem addlInd (a : AccA) (n : RN) (m : PostMod) : Statement (.addlInd a n m) := rfl
theorem addlReg (a : AccA) (r : Reg) : Statement (.addlReg a r) := rfl
theorem subhDirect (a : AccA) (d : BitVec 8) : Statement (.subhDirect a d) := rfl
theorem subhInd (a : AccA) (n : RN) (m : PostMod) : Statement (.subhInd a n m) := rfl
theorem subhReg (a : AccA) (r : Reg) : Statement (.subhReg a r) := rfl
theorem sublDirect (a : AccA) (d : BitVec 8) : Statement (.sublDirect a d) := rfl
theorem sublInd (a : AccA) (n : RN) (m : PostMod) : Statement (.sublInd a n m) := rfl
theorem sublReg (a : AccA) (r : Reg) : Statement (.sublReg a r) := rfl
theorem sqrDirect (d : BitVec 8) : Statement (.sqrDirect d) := rfl
theorem sqrInd (n : RN) (m : PostMod) : Statement (.sqrInd n m) := rfl
theorem sqrReg (r : Reg) : Statement (.sqrReg r) := rfl
theorem sqraDirect (a : AccA) (d : BitVec 8) : Statement (.sqraDirect a d) := rfl
theorem sqraInd (a : AccA) (n : RN) (m : PostMod) : Statement (.sqraInd a n m) := rfl
theorem sqraReg (a : AccA) (r : Reg) : Statement (.sqraReg a r) := rfl
theorem cmpuDirect (a : AccA) (d : BitVec 8) : Statement (.cmpuDirect a d) := rfl
theorem cmpuInd (a : AccA) (n : RN) (m : PostMod) : Statement (.cmpuInd a n m) := rfl
theorem cmpuReg (a : AccA) (r : Reg) : Statement (.cmpuReg a r) := rfl
theorem orShort (a : AccA) (v : BitVec 8) : Statement (.orShort a v) := rfl
theorem orLong (a : AccA) (v : Word) : Statement (.orLong a v) := rfl
theorem orRbShort (a : AccA) (o : BitVec 7) : Statement (.orRbShort a o) := rfl
theorem orRbLong (a : AccA) (o : Word) : Statement (.orRbLong a o) := rfl
theorem orLongDirect (a : AccA) (addr : Word) : Statement (.orLongDirect a addr) := rfl
theorem andShort (a : AccA) (v : BitVec 8) : Statement (.andShort a v) := rfl
theorem andLong (a : AccA) (v : Word) : Statement (.andLong a v) := rfl
theorem andRbShort (a : AccA) (o : BitVec 7) : Statement (.andRbShort a o) := rfl
theorem andRbLong (a : AccA) (o : Word) : Statement (.andRbLong a o) := rfl
theorem andLongDirect (a : AccA) (addr : Word) : Statement (.andLongDirect a addr) := rfl
theorem xorShort (a : AccA) (v : BitVec 8) : Statement (.xorShort a v) := rfl
theorem xorLong (a : AccA) (v : Word) : Statement (.xorLong a v) := rfl
theorem xorRbShort (a : AccA) (o : BitVec 7) : Statement (.xorRbShort a o) := rfl
theorem xorRbLong (a : AccA) (o : Word) : Statement (.xorRbLong a o) := rfl
theorem xorLongDirect (a : AccA) (addr : Word) : Statement (.xorLongDirect a addr) := rfl
theorem addShort (a : AccA) (v : BitVec 8) : Statement (.addShort a v) := rfl
theorem addLong (a : AccA) (v : Word) : Statement (.addLong a v) := rfl
theorem addRbShort (a : AccA) (o : BitVec 7) : Statement (.addRbShort a o) := rfl
theorem addRbLong (a : AccA) (o : Word) : Statement (.addRbLong a o) := rfl
theorem addLongDirect (a : AccA) (addr : Word) : Statement (.addLongDirect a addr) := rfl
theorem cmpShort (a : AccA) (v : BitVec 8) : Statement (.cmpShort a v) := rfl
theorem cmpLong (a : AccA) (v : Word) : Statement (.cmpLong a v) := rfl
theorem cmpRbShort (a : AccA) (o : BitVec 7) : Statement (.cmpRbShort a o) := rfl
theorem cmpRbLong (a : AccA) (o : Word) : Statement (.cmpRbLong a o) := rfl
theorem cmpLongDirect (a : AccA) (addr : Word) : Statement (.cmpLongDirect a addr) := rfl
theorem subShort (a : AccA) (v : BitVec 8) : Statement (.subShort a v) := rfl
theorem subLong (a : AccA) (v : Word) : Statement (.subLong a v) := rfl
theorem subRbShort (a : AccA) (o : BitVec 7) : Statement (.subRbShort a o) := rfl
theorem subRbLong (a : AccA) (o : Word) : Statement (.subRbLong a o) := rfl
theorem subLongDirect (a : AccA) (addr : Word) : Statement (.subLongDirect a addr) := rfl
theorem shrA (a : AccA) (cc : Cond) : Statement (.shrA a cc) := rfl
theorem shr4A (a : AccA) (cc : Cond) : Statement (.shr4A a cc) := rfl
theorem shlA (a : AccA) (cc : Cond) : Statement (.shlA a cc) := rfl
theorem shl4A (a : AccA) (cc : Cond) : Statement (.shl4A a cc) := rfl
theorem rorA (a : AccA) (cc : Cond) : Statement (.rorA a cc) := rfl
theorem rolA (a : AccA) (cc : Cond) : Statement (.rolA a cc) := rfl
theorem clrA (a : AccA) (cc : Cond) : Statement (.clrA a cc) := rfl
theorem notA (a : AccA) (cc : Cond) : Statement (.notA a cc) := rfl
theorem negA (a : AccA) (cc : Cond) : Statement (.negA a cc) := rfl
theorem rndA (a : AccA) (cc : Cond) : Statement (.rndA a cc) := rfl
theorem pacrA (a : AccA) (cc : Cond) : Statement (.pacrA a cc) := rfl
theorem clrrA (a : AccA) (cc : Cond) : Statement (.clrrA a cc) := rfl
theorem incA (a : AccA) (cc : Cond) : Statement (.incA a cc) := rfl
theorem decA (a : AccA) (cc : Cond) : Statement (.decA a cc) := rfl
theorem copyA (a : AccA) (cc : Cond) : Statement (.copyA a cc) := rfl
theorem shrB (b : AccB) (cc : Cond) : Statement (.shrB b cc) := rfl
theorem shr4B (b : AccB) (cc : Cond) : Statement (.shr4B b cc) := rfl
theorem shlB (b : AccB) (cc : Cond) : Statement (.shlB b cc) := rfl
theorem shl4B (b : AccB) (cc : Cond) : Statement (.shl4B b cc) := rfl
theorem rorB (b : AccB) (cc : Cond) : Statement (.rorB b cc) := rfl
theorem rolB (b : AccB) (cc : Cond) : Statement (.rolB b cc) := rfl
theorem clrB (b : AccB) (cc : Cond) : Statement (.clrB b cc) := rfl
theorem norm (a : AccA) (n : RN) (m : PostMod) : Statement (.norm a n m) := rfl
theorem divs (a : AccA) (d : BitVec 8) : Statement (.divs a d) := rfl
theorem setInd (v : Word) (n : RN) (m : PostMod) : Statement (.setInd v n m) := rfl
theorem setReg (v : Word) (r : Reg) : Statement (.setReg v r) := rfl
theorem setDirect (v : Word) (d : BitVec 8) : Statement (.setDirect v d) := rfl
theorem rstInd (v : Word) (n : RN) (m : PostMod) : Statement (.rstInd v n m) := rfl
theorem rstReg (v : Word) (r : Reg) : Statement (.rstReg v r) := rfl
theorem rstDirect (v : Word) (d : BitVec 8) : Statement (.rstDirect v d) := rfl
theorem chngInd (v : Word) (n : RN) (m : PostMod) : Statement (.chngInd v n m) := rfl
theorem chngReg (v : Word) (r : Reg) : Statement (.chngReg v r) := rfl
theorem chngDirect (v : Word) (d : BitVec 8) : Statement (.chngDirect v d) := rfl
theorem addvInd (v : Word) (n : RN) (m : PostMod) : Statement (.addvInd v n m) := rfl
theorem addvReg (v : Word) (r : Reg) : Statement (.addvReg v r) := rfl
theorem addvDirect (v : Word) (d : BitVec 8) : Statement (.addvDirect v d) := rfl
theorem tst0LongInd (v : Word) (n : RN) (m : PostMod) : Statement (.tst0LongInd v n m) := rfl
theorem tst0LongReg (v : Word) (r : Reg) : Statement (.tst0LongReg v r) := rfl
theorem tst0LongDirect (v : Word) (d : BitVec 8) : Statement (.tst0LongDirect v d) := rfl
theorem tst1LongInd (v : Word) (n : RN) (m : PostMod) : Statement (.tst1LongInd v n m) := rfl
theorem tst1LongReg (v : Word) (r : Reg) : Statement (.tst1LongReg v r) := rfl
theorem tst1LongDirect (v : Word) (d : BitVec 8) : Statement (.tst1LongDirect v d) := rfl
theorem cmpvInd (v : Word) (n : RN) (m : PostMod) : Statement (.cmpvInd v n m) := rfl
theorem cmpvReg (v : Word) (r : Reg) : Statement (.cmpvReg v r) := rfl
theorem cmpvDirect (v : Word) (d : BitVec 8) : Statement (.cmpvDirect v d) := rfl
theorem subvInd (v : Word) (n : RN) (m : PostMod) : Statement (.subvInd v n m) := rfl
theorem subvReg (v : Word) (r : Reg) : Statement (.subvReg v r) := rfl
theorem subvDirect (v : Word) (d : BitVec 8) : Statement (.subvDirect v d) := rfl
theorem maxd (a : AccA) (strict : Bool) (m : PostMod) : Statement (.maxd a strict m) := rfl
theorem max (a : AccA) (strict : Bool) (m : PostMod) : Statement (.max a strict m) := rfl
theorem min (a : AccA) (strict : Bool) (m : PostMod) : Statement (.min a strict m) := rfl
theorem lim (src : AccA) (dst : AccA) : Statement (.lim src dst) := rfl
theorem mpyInd (n : RN) (m : PostMod) : Statement (.mpyInd n m) := rfl
theorem mpyReg (r : Reg) : Statement (.mpyReg r) := rfl
theorem mpyDual (j : RJ) (mj : PostMod) (i : RI) (mi : PostMod) : Statement (.mpyDual j mj i mi) := rfl
theorem mpyLong (n : RN) (m : PostMod) (v : Word) : Statement (.mpyLong n m v) := rfl
theorem mpysuInd (n : RN) (m : PostMod) : Statement (.mpysuInd n m) := rfl
theorem mpysuReg (r : Reg) : Statement (.mpysuReg r) := rfl
theorem mpysuDual (j : RJ) (mj : PostMod) (i : RI) (mi : PostMod) : Statement (.mpysuDual j mj i mi) := rfl
theorem mpysuLong (n : RN) (m : PostMod) (v : Word) : Statement (.mpysuLong n m v) := rfl
theorem macInd (a : AccA) (n : RN) (m : PostMod) : Statement (.macInd a n m) := rfl
theorem macReg (a : AccA) (r : Reg) : Statement (.macReg a r) := rfl
theorem macDual (a : AccA) (j : RJ) (mj : PostMod) (i : RI) (mi : PostMod) : Statement (.macDual a j mj i mi) := rfl
theorem macLong (a : AccA) (n : RN) (m : PostMod) (v : Word) : Statement (.macLong a n m v) := rfl
theorem macusInd (a : AccA) (n : RN) (m : PostMod) : Statement (.macusInd a n m) := rfl
theorem macusReg (a : AccA) (r : Reg) : Statement (.macusReg a r) := rfl
theorem macusDual (a : AccA) (j : RJ) (mj : PostMod) (i : RI) (mi : PostMod) :
    Statement (.macusDual a j mj i mi) := rfl
theorem macusLong (a : AccA) (n : RN) (m : PostMod) (v : Word) : Statement (.macusLong a n m v) := rfl
theorem maaInd (a : AccA) (n : RN) (m : PostMod) : Statement (.maaInd a n m) := rfl
theorem maaReg (a : AccA) (r : Reg) : Statement (.maaReg a r) := rfl
theorem maaDual (a : AccA) (j : RJ) (mj : PostMod) (i : RI) (mi : PostMod) : Statement (.maaDual a j mj i mi) := rfl
theorem maaLong (a : AccA) (n : RN) (m : PostMod) (v : Word) : Statement (.maaLong a n m v) := rfl
theorem macuuInd (a : AccA) (n : RN) (m : PostMod) : Statement (.macuuInd a n m) := rfl
theorem macuuReg (a : AccA) (r : Reg) : Statement (.macuuReg a r) := rfl
theorem macuuDual (a : AccA) (j : RJ) (mj : PostMod) (i : RI) (mi : PostMod) :
    Statement (.macuuDual a j mj i mi) := rfl
theorem macuuLong (a : AccA) (n : RN) (m : PostMod) (v : Word) : Statement (.macuuLong a n m v) := rfl
theorem macsuInd (a : AccA) (n : RN) (m : PostMod) : Statement (.macsuInd a n m) := rfl
theorem macsuReg (a : AccA) (r : Reg) : Statement (.macsuReg a r) := rfl
theorem macsuDual (a : AccA) (j : RJ) (mj : PostMod) (i : RI) (mi : PostMod) :
    Statement (.macsuDual a j mj i mi) := rfl
theorem macsuLong (a : AccA) (n : RN) (m : PostMod) (v : Word) : Statement (.macsuLong a n m v) := rfl
theorem maasuInd (a : AccA) (n : RN) (m : PostMod) : Statement (.maasuInd a n m) := rfl
theorem maasuReg (a : AccA) (r : Reg) : Statement (.maasuReg a r) := rfl
theorem maasuDual (a : AccA) (j : RJ) (mj : PostMod) (i : RI) (mi : PostMod) :
    Statement (.maasuDual a j mj i mi) := rfl
theorem maasuLong (a : AccA) (n : RN) (m : PostMod) (v : Word) : Statement (.maasuLong a n m v) := rfl
theorem mpyDirect (d : BitVec 8) : Statement (.mpyDirect d) := rfl
theorem macDirect (a : AccA) (d : BitVec 8) : Statement (.macDirect a d) := rfl
theorem maaDirect (a : AccA) (d : BitVec 8) : Statement (.maaDirect a d) := rfl
theorem macsuDirect (a : AccA) (d : BitVec 8) : Statement (.macsuDirect a d) := rfl
theorem mpyi (v : BitVec 8) : Statement (.mpyi v) := rfl
theorem msuLong (a : AccA) (n : RN) (m : PostMod) (v : Word) : Statement (.msuLong a n m v) := rfl
theorem msuDual (a : AccA) (j : RJ) (mj : PostMod) (i : RI) (mi : PostMod) : Statement (.msuDual a j mj i mi) := rfl
theorem tstbInd (n : RN) (m : PostMod) (k : BitVec 4) : Statement (.tstbInd n m k) := rfl
theorem tstbReg (r : Reg) (k : BitVec 4) : Statement (.tstbReg r k) := rfl
theorem tstbDirect (d : BitVec 8) (k : BitVec 4) : Statement (.tstbDirect d k) := rfl
theorem shfc (src : Acc) (dst : Acc) (cc : Cond) : Statement (.shfc src dst cc) := rfl
theorem shfi (src : Acc) (dst : Acc) (v : BitVec 6) : Statement (.shfi src dst v) := rfl
theorem expInd (n : RN) (m : PostMod) (dst : Option AccA) : Statement (.expInd n m dst) := by cases dst <;> rfl
theorem expReg (r : Reg) (dst : Option AccA) : Statement (.expReg r dst) := by cases dst <;> rfl
theorem expAcc (b : AccB) (dst : Option AccA) : Statement (.expAcc b dst) := by cases dst <;> rfl
theorem movRegReg (src : Reg) (dst : Reg) : Statement (.movRegReg src dst) := rfl
theorem movAccAcc (src : Acc) (dst : Acc) : Statement (.movAccAcc src dst) := rfl
theorem movAccDvm (src : Acc) : Statement (.movAccDvm src) := rfl
theorem movAccX (src : Acc) : Statement (.movAccX src) := rfl
theorem movRegB (r : Reg) (b : AccB) : Statement (.movRegB r b) := rfl
theorem movRegMixp (r : Reg) : Statement (.movRegMixp r) := rfl
theorem movRegInd (r : Reg) (n : RN) (m : PostMod) : Statement (.movRegInd r n m) := rfl
theorem movMixpReg (r : Reg) : Statement (.movMixpReg r) := rfl
theorem movSpecAcc (src : SpecReg) (acc : Acc) : Statement (.movSpecAcc src acc) := by cases src <;> rfl
theorem movIcrAcc (acc : Acc) : Statement (.movIcrAcc acc) := rfl
theorem movIndReg (n : RN) (m : PostMod) (r : Reg) : Statement (.movIndReg n m r) := rfl
theorem movIndB (n : RN) (m : PostMod) (b : AccB) : Statement (.movIndB n m b) := rfl
theorem movSpReg (r : Reg) : Statement (.movSpReg r) := rfl
theorem movRnDirect (n : RNStar) (d : BitVec 8) : Statement (.movRnDirect n d) := rfl
theorem movHalfDirect (acc : Acc) (h : Half) (d : BitVec 8) : Statement (.movHalfDirect acc h d) := rfl
theorem movDirectRn (d : BitVec 8) (n : RNStar) : Statement (.movDirectRn d n) := rfl
theorem movDirectAcc (d : BitVec 8) (acc : Acc) : Statement (.movDirectAcc d acc) := rfl
theorem movDirectHalf (d : BitVec 8) (acc : Acc) (h : Half) : Statement (.movDirectHalf d acc h) := rfl
theorem movDirectHighEu (d : BitVec 8) (a : AccA) : Statement (.movDirectHighEu d a) := rfl
theorem movDirectSv (d : BitVec 8) : Statement (.movDirectSv d) := rfl
theorem movSvDirect (d : BitVec 8) : Statement (.movSvDirect d) := rfl
theorem movLongDirectA (addr : Word) (a : AccA) : Statement (.movLongDirectA addr a) := rfl
theorem movALongDirect (a : AccA) (addr : Word) : Statement (.movALongDirect a addr) := rfl
theorem movLongReg (v : Word) (r : Reg) : Statement (.movLongReg v r) := rfl
theorem movLongB (v : Word) (b : AccB) : Statement (.movLongB v b) := rfl
theorem movShortHalf (v : BitVec 8) (a : AccA) (h : Half) : Statement (.movShortHalf v a h) := by cases h <;> rfl
theorem movShortRn (v : BitVec 8) (n : RNStar) : Statement (.movShortRn v n) := rfl
theorem movShortExt (v : BitVec 8) (k : BitVec 2) : Statement (.movShortExt v k) := rfl
theorem movShortSv (v : BitVec 8) : Statement (.movShortSv v) := rfl
theorem movRegIcr (r : Reg) : Statement (.movRegIcr r) := rfl
theorem movShortIcr (v : BitVec 5) : Statement (.movShortIcr v) := rfl
theorem movRbShortA (o : BitVec 7) (a : AccA) : Statement (.movRbShortA o a) := rfl
theorem movARbShort (a : AccA) (o : BitVec 7) : Statement (.movARbShort a o) := rfl
theorem movRbLongA (o : Word) (a : AccA) : Statement (.movRbLongA o a) := rfl
theorem movARbLong (a : AccA) (o : Word) : Statement (.movARbLong a o) := rfl
theorem movpAccReg (a : AccA) (r : Reg) : Statement (.movpAccReg a r) := rfl
theorem movpIndInd (n : RN) (m : PostMod) (i : RI) (mi : PostMod) : Statement (.movpIndInd n m i mi) := rfl
theorem movsReg (r : Reg) (acc : Acc) : Statement (.movsReg r acc) := rfl
theorem movsInd (n : RN) (m : PostMod) (acc : Acc) : Statement (.movsInd n m acc) := rfl
theorem movsDirect (d : BitVec 8) (acc : Acc) : Statement (.movsDirect d acc) := rfl
theorem movsi (n : RNStar) (acc : Acc) (v : BitVec 5) : Statement (.movsi n acc v) := rfl
theorem movrReg (r : Reg) (a : AccA) : Statement (.movrReg r a) := rfl
theorem movrInd (n : RN) (m : PostMod) (a : AccA) : Statement (.movrInd n m a) := rfl
theorem pushReg (r : Reg) : Statement (.pushReg r) := rfl
theorem pushLong (v : Word) : Statement (.pushLong v) := rfl
theorem pop (r : Reg) : Statement (.pop r) := rfl
theorem swap (opt : SwapOpt) : Statement (.swap opt) := rfl
theorem banke (k : BitVec 4) : Statement (.banke k) := rfl
theorem movd (i : RI) (mi : PostMod) (j : RJ) (mj : PostMod) : Statement (.movd i mi j mj) := rfl
theorem repReg (r : Reg) : Statement (.repReg r) := rfl
theorem repShort (v : BitVec 8) : Statement (.repShort v) := rfl
theorem bkrepShort (v : BitVec 8) (addr : Word) : Statement (.bkrepShort v addr) := rfl
theorem bkrepReg (r : Reg) (addr : Word) : Statement (.bkrepReg r addr) := rfl
theorem br (addr : Word) (cc : Cond) : Statement (.br addr cc) := rfl
theorem brr (o : BitVec 7) (cc : Cond) : Statement (.brr o cc) := rfl
theorem call (addr : Word) (cc : Cond) : Statement (.call addr cc) := rfl
theorem callr (o : BitVec 7) (cc : Cond) : Statement (.callr o cc) := rfl
theorem calla (a : AccA) : Statement (.calla a) := rfl
theorem ret (cc : Cond) : Statement (.ret cc) := rfl
theorem reti (cc : Cond) (ctx : Bool) : Statement (.reti cc ctx) := rfl
theorem cntx (restore : Bool) : Statement (.cntx restore) := rfl
theorem rets (v : BitVec 8) : Statement (.rets v) := rfl
theorem modr (n : RN) (m : PostMod) (dmod : Bool) : Statement (.modr n m dmod) := rfl
theorem loadPage (v : BitVec 8) : Statement (.loadPage v) := rfl
theorem loadMod (j : Bool) (v : BitVec 9) : Statement (.loadMod j v) := rfl
theorem loadStep (j : Bool) (v : BitVec 7) : Statement (.loadStep j v) := rfl
theorem loadPs (v : BitVec 2) : Statement (.loadPs v) := rfl
theorem brk : Statement .brk := rfl
theorem retd : Statement .retd := rfl
theorem retid : Statement .retid := rfl
theorem nop : Statement .nop := rfl
theorem eint : Statement .eint := rfl
theorem dint : Statement .dint := rfl
theorem trap : Statement .trap := rfl

end Sys2Proof.Laws.EncodeLength
end

