-- ==== Sys2Proof/Laws/Trace.lean ====
section
/-! SUPPORT. The trace buffer of the emulation module: what a push and a record of one or two stages do, and which parts
of a step record (R514, R515). -/

namespace Sys2Proof.Machine

/-- The settled stages: the unused ones of sixteen, then the used ones. -/
theorem traceSettle_eq (t : List TraceEntry) (h : t.length = 16) :
    traceSettle t = List.replicate (16 - (t.filter (· ≠ traceUnused)).length) traceUnused ++ t.filter (· ≠ traceUnused) := by
  have hu : t.filter (fun e => !(e == traceUnused)) = t.filter (· ≠ traceUnused) := by
    congr 1
    funext e
    by_cases he : e = traceUnused <;> simp [he]
  have hl := (traceSettle_perm t).length_eq
  unfold traceSettle at hl ⊢
  rw [hu] at hl ⊢
  rw [List.length_append, h] at hl
  congr 1
  rw [List.eq_replicate_iff]
  exact ⟨by omega, fun e he => by simpa using (List.mem_filter.1 he).2⟩

/-- One push is one record of `traceAfter`. -/
theorem tracePush_trace (e : TraceEntry) (s : State) (h : s.ocem.trace.length = 16) :
    (tracePush e s).ocem.trace = traceAfter s.ocem.trace [e] := by
  have hne : s.ocem.trace ≠ [] := by rintro h0; simp [h0] at h
  rw [(tracePush_next e s hne).2.1, traceSettle_eq _ h]
  unfold traceAfter
  have hk := List.length_filter_le (· ≠ traceUnused) s.ocem.trace
  generalize s.ocem.trace.filter (· ≠ traceUnused) = kept at hk ⊢
  rw [h] at hk
  simp only [List.length_append, List.length_singleton]
  rcases Nat.lt_or_ge kept.length 16 with hlt | hge
  · obtain ⟨n, hn⟩ : ∃ n, 16 - kept.length = n + 1 := ⟨15 - kept.length, by omega⟩
    rw [hn, List.replicate_succ, List.cons_append, List.tail_cons, show 16 - (kept.length + 1) = n by omega,
      show kept.length + 1 - 16 = 0 by omega, List.drop_zero, List.append_assoc]
  · rw [show 16 - kept.length = 0 by omega, show 16 - (kept.length + 1) = 0 by omega, show kept.length + 1 - 16 = 1 by omega]
    cases kept with
    | nil => simp at hge
    | cons x l => simp

theorem traceAfter_length (old new : List TraceEntry) : (traceAfter old new).length = 16 := by
  simp only [traceAfter, List.length_append, List.length_replicate, List.length_drop]
  omega

/-- Two records one after the other are two records at once, when the first can be told from an unused stage. -/
theorem traceAfter_two (old : List TraceEntry) (h : old.length = 16) (e f : TraceEntry) (he : e ≠ traceUnused) :
    traceAfter (traceAfter old [e]) [f] = traceAfter old [e, f] := by
  have hk := List.length_filter_le (· ≠ traceUnused) old
  have hf : (traceAfter old [e]).filter (· ≠ traceUnused) =
      (old.filter (· ≠ traceUnused) ++ [e]).drop ((old.filter (· ≠ traceUnused)).length - 15) := by
    unfold traceAfter
    dsimp only
    rw [List.filter_append, List.filter_eq_nil_iff.2 (by simp), List.nil_append, List.filter_eq_self.2]
    · congr 1
      simp
    · intro x hx
      rcases List.mem_append.1 (List.mem_of_mem_drop hx) with hx | hx
      · simpa using (List.mem_filter.1 hx).2
      · simpa [List.mem_singleton.1 hx] using he
  rw [traceAfter, hf, traceAfter]
  generalize old.filter (· ≠ traceUnused) = kept at hk ⊢
  rw [h] at hk
  rcases Nat.lt_or_ge kept.length 16 with hlt | hge
  · rw [show kept.length - 15 = 0 by omega]
    simp
  · have h16 : kept.length = 16 := by omega
    rw [show kept.length - 15 = 1 by omega]
    cases kept with
    | nil => simp at hge
    | cons x l => simp at h16; simp [h16]

/-- A push sets TBF and requests BI when TBFE is set and the buffer becomes full (R514). -/
theorem tracePush_tbf (e : TraceEntry) (s : State) :
    let fills := s.ocem.mode0.getLsbD 12 = true ∧ traceUnused ∈ s.ocem.trace ∧ traceUnused ∉ (tracePush e s).ocem.trace
    ((tracePush e s).ocem.status0.getLsbD 13 = true ↔ s.ocem.status0.getLsbD 13 = true ∨ fills) ∧
      (fills → (tracePush e s).ocem.biReq = true) ∧ (s.ocem.biReq = true → (tracePush e s).ocem.biReq = true) ∧
      (tracePush e s).ocem.mode0 = s.ocem.mode0 := by
  unfold tracePush ocemBreak ocemCause traceFull
  dsimp only
  split_ifs with hc <;> simp_all

theorem traceOne_takes (src : Word) (s : State) (h : s.ocem.trace.length = 16) :
    TraceTakes [⟨true, src⟩] s (traceOne src s) :=
  ⟨tracePush_trace _ s h, (tracePush_tbf _ s).1, (tracePush_tbf _ s).2.1⟩

/-- A stage with tag 0 is no unused stage, so a push of one makes none. -/
theorem unused_of_push (a : Word) (s : State) (h : s.ocem.trace.length = 16)
    (hm : traceUnused ∈ (tracePush ⟨false, a⟩ s).ocem.trace) : traceUnused ∈ s.ocem.trace := by
  rw [(tracePush_next _ _ (by rintro h0; simp [h0] at h)).2.1] at hm
  rcases List.mem_append.1 hm with hm | hm
  · exact (traceSettle_perm _).mem_iff.1 (List.mem_of_mem_tail hm)
  · simp [traceUnused] at hm

theorem traceTwo_takes (src dst : Word) (s : State) (h : s.ocem.trace.length = 16) :
    TraceTakes [⟨false, src⟩, ⟨false, dst⟩] s (traceTwo src dst s) := by
  have h1 := tracePush_trace ⟨false, src⟩ s h
  obtain ⟨p1, p2, -, p4⟩ := tracePush_tbf ⟨false, src⟩ s
  have rise1 := unused_of_push src s h
  unfold traceTwo
  generalize tracePush ⟨false, src⟩ s = t at h1 p1 p2 p4 rise1 ⊢
  have hl : t.ocem.trace.length = 16 := by rw [h1, traceAfter_length]
  obtain ⟨q1, q2, q3, -⟩ := tracePush_tbf ⟨false, dst⟩ t
  have rise2 := unused_of_push dst t hl
  rw [p4] at q1 q2
  refine ⟨(tracePush_trace _ t hl).trans (by rw [h1, traceAfter_two _ h _ _ (by simp [traceUnused])]), ?_, ?_⟩
  · rw [q1, p1]
    constructor
    · rintro ((h | ⟨m, o, n⟩) | ⟨m, o, n⟩)
      · exact .inl h
      · exact .inr ⟨m, o, fun x => n (rise2 x)⟩
      · exact .inr ⟨m, rise1 o, n⟩
    · rintro (h | ⟨m, o, n⟩)
      · exact .inl (.inl h)
      · by_cases hu : traceUnused ∈ t.ocem.trace
        · exact .inr ⟨m, hu, n⟩
        · exact .inl (.inr ⟨m, o, hu⟩)
  · rintro ⟨m, o, n⟩
    by_cases hu : traceUnused ∈ t.ocem.trace
    · exact q2 ⟨m, hu, n⟩
    · exact q3 (p2 ⟨m, o, hu⟩)

/-! ## What a step records -/

/-- From `t` to `u` the trace buffer, TBF and MODE0 are kept, and a BI request stays. -/
structure Unrecorded (t u : State) : Prop where
  kept : TraceKept t u
  mode0 : u.ocem.mode0 = t.ocem.mode0
  biReq : t.ocem.biReq = true → u.ocem.biReq = true

theorem unrecorded_of_ocem {t u : State} (h : u.ocem = t.ocem) : Unrecorded t u :=
  ⟨⟨by rw [h], by rw [h]⟩, by rw [h], by rw [h]; exact id⟩

theorem unrecorded_trans {s t u : State} (h : Unrecorded s t) (g : Unrecorded t u) : Unrecorded s u :=
  ⟨⟨g.kept.1.trans h.kept.1, g.kept.2.trans h.kept.2⟩, g.mode0.trans h.mode0, g.biReq ∘ h.biReq⟩

/-- A record before a part that records nothing. -/
theorem traceTakes_then {l : List TraceEntry} {s t u : State} (h : TraceTakes l s t) (g : Unrecorded t u) :
    TraceTakes l s u := by
  obtain ⟨⟨ht, hf⟩, -, hb⟩ := g
  refine ⟨ht.trans h.1, ?_, ?_⟩
  · rw [hf, ht]; exact h.2.1
  · rw [ht]; exact fun x => hb (h.2.2 x)

/-- A record after a part that records nothing. -/
theorem then_traceTakes {l : List TraceEntry} {s t u : State} (h : Unrecorded s t) (g : TraceTakes l t u) :
    TraceTakes l s u := by
  obtain ⟨⟨ht, hf⟩, hm, -⟩ := h
  unfold TraceTakes at g
  rw [ht, hf, hm] at g
  exact g

/-- A breakpoint by a jump or by an interrupt records nothing. -/
theorem unrecorded_break (k : Nat) (hk : k = 11 ∨ k = 12) (s : State) : Unrecorded s (ocemBreak k s) := by
  refine ⟨⟨rfl, ?_⟩, rfl, fun _ => rfl⟩
  rcases hk with rfl | rfl <;> simp [ocemBreak, ocemCause]

theorem ocemWatch_trace (r : Bool) (a : Word) (v : Option Word) (b s : State) :
    (ocemWatch r a v b s).ocem.trace = s.ocem.trace := by
  have hd : ∀ dx vx t, (ocemDataWatch b dx vx a v t).ocem.trace = t.ocem.trace := by
    intro dx vx t
    unfold ocemDataWatch ocemDataBreak ocemCause
    dsimp only
    split_ifs <;> rfl
  unfold ocemWatch
  split
  · rfl
  · dsimp only
    split <;> rw [hd] <;> split_ifs <;> rfl

/-- No data write touches the trace buffer: PFT is read-only (R502). -/
theorem dataWrite_trace {a v : Word} {s u : State} (h : dataWrite a v s = .next u) : u.ocem.trace = s.ocem.trace := by
  unfold dataWrite at h
  rw [andThen_eq_next] at h
  obtain ⟨t, hr, h⟩ := h
  rw [← Host.Outcome.next.inj h, ocemWatch_trace]
  unfold dataWriteRaw at hr
  split at hr
  · cases hr; rfl
  · dsimp only at hr
    split at hr <;> (cases hr; rfl)
  · cases hr; rfl
  · cases hr; rfl
  · cases hr
    dsimp only
    unfold ocemWrite
    split <;> rfl
  · cases hr

theorem isTaken_iff (i : Instr) (b : State) : isTaken (instrInfo i) b = true ↔ transfers i b := by
  cases i with
  | movSpecAcc src _ => cases src <;> simp [isTaken, instrInfo, infoPlain, transfers]
  | _ => simp [isTaken, instrInfo, infoPlain, infoTwo, transfers]

theorem dst_pc_iff (i : Instr) : (instrInfo i).dst = some .pc ↔ writesReg i .pc := by
  cases i <;> simp [instrInfo, infoPlain, infoTwo, writesReg]

/-- The class of an instruction tells how many stages its jump fills (R514). -/
theorem jumpRecord_kind (i : Instr) (a target : Word) :
    jumpRecord i a target = if [Kind.br, .brr, .call, .callr].contains (instrInfo i).kind then [⟨true, a⟩]
      else [⟨false, a⟩, ⟨false, target⟩] := by
  cases i with
  | movSpecAcc src _ => cases src <;> rfl
  | _ => rfl

/-- What the OCEM does after an instruction: it records the jump, if there is one outside the TRAP/BI routine (R514). -/
theorem ocemJump_trace (i : Instr) (a : Word) (b t : State) (h : t.ocem.trace.length = 16) :
    (¬(b.ctl.inTrap = false ∧ (transfers i b ∨ writesReg i .pc)) → ocemJump (instrInfo i) a b t = t) ∧
      (b.ctl.inTrap = false ∧ (transfers i b ∨ writesReg i .pc) →
        TraceTakes (jumpRecord i a t.pc) t (ocemJump (instrInfo i) a b t)) := by
  rw [← isTaken_iff, ← dst_pc_iff]
  unfold ocemJump
  refine ⟨fun hj => if_neg (by simpa using hj), fun hj => ?_⟩
  rw [if_pos (by simpa using hj), jumpRecord_kind]
  have hr : TraceTakes (if [Kind.br, .brr, .call, .callr].contains (instrInfo i).kind then [⟨true, a⟩]
      else [⟨false, a⟩, ⟨false, t.pc⟩]) t
      (if [Kind.br, .brr, .call, .callr].contains (instrInfo i).kind then traceOne a t else traceTwo a t.pc t) := by
    split
    · exact traceOne_takes a t h
    · exact traceTwo_takes a t.pc t h
  generalize (if [Kind.br, .brr, .call, .callr].contains (instrInfo i).kind then traceOne a t else traceTwo a t.pc t) = w
    at hr ⊢
  show TraceTakes _ t (if w.ocem.mode0.getLsbD 10 then ocemBreak 11 w else w)
  by_cases hm : w.ocem.mode0.getLsbD 10 = true
  · rw [if_pos hm]
    exact traceTakes_then hr (unrecorded_break 11 (.inl rfl) w)
  · rw [if_neg hm]
    exact hr

theorem traceOne_ctl (src : Word) (s : State) : (traceOne src s).ctl = s.ctl := by
  unfold traceOne tracePush
  dsimp only
  split_ifs <;> rfl

theorem traceTwo_ctl (src dst : Word) (s : State) : (traceTwo src dst s).ctl = s.ctl := by
  unfold traceTwo tracePush
  dsimp only
  split_ifs <;> rfl

theorem ocemJump_ctl (f : InstrInfo) (a : Word) (b s : State) : (ocemJump f a b s).ctl = s.ctl := by
  unfold ocemJump
  dsimp only
  split_ifs <;> simp only [ocemBreak, traceOne_ctl, traceTwo_ctl]

/-- A part of the sequencing keeps the pending delayed return. -/
def SameReturn (s t : State) : Prop := t.ctl.delayFrom = s.ctl.delayFrom ∧ t.ctl.delayTarget = s.ctl.delayTarget

theorem afterRepeat_unrecorded (a : Word) (b s : State) :
    Unrecorded s (afterRepeat a b s).1 ∧ SameReturn s (afterRepeat a b s).1 := by
  have h : (afterRepeat a b s).1.ocem = s.ocem ∧ SameReturn s (afterRepeat a b s).1 := by
    unfold afterRepeat
    split_ifs <;> exact ⟨rfl, rfl, rfl⟩
  exact ⟨unrecorded_of_ocem h.1, h.2⟩

theorem applyLpClear_unrecorded (n : BitVec 3) (s : State) :
    Unrecorded s (applyLpClear n s) ∧ SameReturn s (applyLpClear n s) := by
  have h : (applyLpClear n s).ocem = s.ocem ∧ SameReturn s (applyLpClear n s) := by
    unfold applyLpClear leaveAll
    split_ifs <;> exact ⟨rfl, rfl, rfl⟩
  exact ⟨unrecorded_of_ocem h.1, h.2⟩

theorem leaveBlock_unrecorded (s : State) : Unrecorded s (leaveBlock s) ∧ SameReturn s (leaveBlock s) := by
  have h : (leaveBlock s).ocem = s.ocem ∧ SameReturn s (leaveBlock s) := by
    unfold leaveBlock popBlock
    split_ifs
    · exact ⟨rfl, rfl, rfl⟩
    · dsimp only
      split <;> exact ⟨rfl, rfl, rfl⟩
  exact ⟨unrecorded_of_ocem h.1, h.2⟩

/-- The end of a pass records nothing, as R514 names no such event. -/
theorem afterBlock_unrecorded (next : Word) (s : State) :
    Unrecorded s (afterBlock next s) ∧ SameReturn s (afterBlock next s) := by
  have join : ∀ {t : State} (n : BitVec 3), Unrecorded s t → SameReturn s t →
      Unrecorded s (applyLpClear n t) ∧ SameReturn s (applyLpClear n t) := fun n h g =>
    ⟨unrecorded_trans h (applyLpClear_unrecorded n _).1, (applyLpClear_unrecorded n _).2.1.trans g.1,
      (applyLpClear_unrecorded n _).2.2.trans g.2⟩
  unfold afterBlock endBlock
  split
  · split
    · exact join _ (leaveBlock_unrecorded s).1 (leaveBlock_unrecorded s).2
    · generalize ht : ({ s with regs := { s.regs with lc := s.regs.lc - 1 }, pc := s.ctl.bkStart } : State) = t
      have h : Unrecorded s t := unrecorded_of_ocem (by rw [← ht])
      have hr : SameReturn s t := ⟨by rw [← ht], by rw [← ht]⟩
      show Unrecorded s (applyLpClear _ (if ocemArmed 13 t then ocemBreak 11 t else t)) ∧
        SameReturn s (applyLpClear _ (if ocemArmed 13 t then ocemBreak 11 t else t))
      split
      · exact join _ (unrecorded_trans h (unrecorded_break 11 (.inl rfl) t)) hr
      · exact join _ h hr
  · exact ⟨unrecorded_of_ocem rfl, rfl, rfl⟩

theorem returnTo_ocem (v : Word) (s : State) : (returnTo v s).ocem = s.ocem := by rw [returnTo_frame]

/-- The sequencing of a delayed return records the jump when it happens and its start was noted, and nothing else. -/
theorem afterDelay_trace (n : Nat) (b s : State) (h : s.ocem.trace.length = 16) :
    (b.ctl.delayCount = 0 ∨ n < b.ctl.delayCount ∨ s.ctl.delayFrom = none → Unrecorded s (afterDelay n b s)) ∧
      (∀ src, b.ctl.delayCount ≠ 0 → b.ctl.delayCount ≤ n → s.ctl.delayFrom = some src →
        TraceTakes [⟨false, src⟩, ⟨false, s.ctl.delayTarget⟩] s (afterDelay n b s)) := by
  unfold afterDelay
  constructor
  · intro hn
    split_ifs with h0 h1
    · exact unrecorded_of_ocem rfl
    · exact unrecorded_of_ocem rfl
    · have hs : s.ctl.delayFrom = none := by tauto
      dsimp only
      rw [hs]
      exact unrecorded_of_ocem (returnTo_ocem ..)
  · intro src h0 h1 hs
    rw [if_neg h0, if_neg (by omega)]
    dsimp only
    rw [hs]
    dsimp only
    generalize hr : returnTo s.ctl.delayTarget _ = w
    have hw : w.ocem = s.ocem := by rw [← hr, returnTo_ocem]
    have ht := then_traceTakes (unrecorded_of_ocem hw) (traceTwo_takes src s.ctl.delayTarget w (by rw [hw]; exact h))
    split_ifs
    · exact traceTakes_then ht (unrecorded_break 11 (.inl rfl) _)
    · exact ht

theorem afterData_unrecorded (b s : State) : Unrecorded s (afterData b s) := by
  unfold afterData
  split
  · exact unrecorded_of_ocem rfl
  · exact ⟨⟨rfl, rfl⟩, rfl, fun _ => rfl⟩
  · exact ⟨⟨rfl, rfl⟩, rfl, id⟩

theorem afterTrapRet_unrecorded (b s : State) : Unrecorded s (afterTrapRet b s) := by
  unfold afterTrapRet
  split_ifs
  · exact ⟨⟨rfl, rfl⟩, rfl, fun h => by simp [h]⟩
  · exact unrecorded_of_ocem rfl

end Sys2Proof.Machine
end

