-- ==== Sys2Proof/Tests/Slice0.lean ====
section
/-! SUPPORT. Small tests: ill-formed terms are refused; words written out from the spec's encodings decode to their
instructions; single steps taken from the spec's test vectors; for each obligation with hypotheses a state that meets
them. -/

namespace Sys2Proof.Tests

-- The many small kernel evaluations are done one after another.
set_option Elab.async false


open Sys2Proof Sys2Proof.Machine

/-! ## Helpers -/

/-- The start state of spec/95_test_vectors.md: address 0x0100, the stack at 0x0800. -/
def start : State := { State.reset with pc := 0x0100, regs := { State.reset.regs with sp := 0x0800 } }

/-- An outcome with a next state of which `check` holds. -/
def nextWith {α φ ρ : Type} (r : Host.Outcome α φ ρ) (check : α → Bool) : Bool :=
  match r with
  | .next u => check u
  | _ => false

/-- One step on the instruction of the words `w` and `w2` from `s` answers a state of which `check` holds. -/
def runs (w w2 : Nat) (s : State) (check : State → Bool) : Bool :=
  nextWith (step (s.withFetchWord 32 (w2 * 65536 + w))) check

/-- `exec` refuses `i` on the start state as breaking an operand restriction, and `i` is ill-formed. -/
def illFormed (i : Instr) : Bool :=
  !i.wf && match exec i start with
    | .refused .excludedOperand => true
    | .refused .sameAccumulator => true
    | _ => false

/-- The two words decode to the instruction. -/
def decodesTo (w w2 : Word) (i : Instr) : Bool :=
  match decode w w2 with
  | .ok j => j == i
  | .error _ => false

/-- Every triple of the list decodes. -/
def allDecode (l : List (Word × Word × Instr)) : Bool := l.all fun q => decodesTo q.1 q.2.1 q.2.2

/-- An outcome with a next state. -/
def isNext {α φ ρ : Type} : Host.Outcome α φ ρ → Bool
  | .next _ => true
  | _ => false

theorem exists_next {α φ ρ : Type} {r : Host.Outcome α φ ρ} (h : isNext r = true) : ∃ u, r = .next u := by
  cases r with
  | next u => exact ⟨u, rfl⟩
  | fault _ => cases h
  | refused _ => cases h

theorem exists_reads {a : Word} {s : State} (h : isNext (dataRead a s) = true) : ∃ v t, Reads a s v t := by
  obtain ⟨⟨v, t⟩, e⟩ := exists_next h
  exact ⟨v, t, e⟩

/-! ## Well-formedness: one ill-formed term for each check of Machine/Legal.lean -/

theorem test_wf_rule16 : illFormed (.mpyReg .p) = true := by decide
theorem test_wf_ruleAlu36 : illFormed (.addReg .a0 .a0h) = true := by decide
theorem test_wf_ruleAlu16_wide : illFormed (.addhReg .a0 .a1) = true := by decide
theorem test_wf_ruleAlu16_same : illFormed (.cmpuReg .a1 .a1l) = true := by decide
theorem test_wf_ruleTstAcc : illFormed (.tst0AccReg .a0 .a0l) = true := by decide
theorem test_wf_ruleAddv : illFormed (.addvReg 1 .pc) = true := by decide
theorem test_wf_ruleExp : illFormed (.expReg .p none) = true := by decide
theorem test_wf_ruleMovRegReg : illFormed (.movRegReg .p .r0) = true := by decide
theorem test_wf_ruleMovRegInd : illFormed (.movRegInd .r1 .r1 .inc) = true := by decide
theorem test_wf_ruleMovIndReg : illFormed (.movIndReg .r5 .step .r5) = true := by decide
theorem test_wf_ruleMovpInd : illFormed (.movpIndInd .r2 .keep .r2 .keep) = true := by decide
theorem test_wf_rulePush : illFormed (.pushReg .sp) = true := by decide
theorem test_wf_rulePop : illFormed (.pop .sp) = true := by decide
theorem test_wf_accepts : (Instr.addReg .a0 .a1h).wf = true ∧ (Instr.movRegInd .r1 .r1 .keep).wf = true ∧
    (Instr.tst0AccReg .a0 .a0h).wf = true := by decide

/-! ## Decoding: a word of every row of spec/opcode_table.json -/

/-- ALM group (R145). -/
theorem test_decode_alm_1 : allDecode [
    (0b1010000111110011#16, 0#16, .orDirect .a1 0xF3),
    (0b1000000010011100#16, 0#16, .orInd .a0 .r4 .step),
    (0b1000000010100011#16, 0#16, .orReg .a0 .r3),
    (0b1010001001011110#16, 0#16, .andDirect .a0 0x5E),
    (0b1000001010001101#16, 0#16, .andInd .a0 .r5 .inc),
    (0b1000001010100011#16, 0#16, .andReg .a0 .r3),
    (0b1010010101101100#16, 0#16, .xorDirect .a1 0x6C),
    (0b1000010010001010#16, 0#16, .xorInd .a0 .r2 .inc),
    (0b1000010110100010#16, 0#16, .xorReg .a1 .r2),
    (0b1010011011110011#16, 0#16, .addDirect .a0 0xF3),
    (0b1000011010001101#16, 0#16, .addInd .a0 .r5 .inc),
    (0b1000011110100010#16, 0#16, .addReg .a1 .r2),
    (0b1010100000001100#16, 0#16, .tst0AccDirect .a0 0xC),
    (0b1000100010010011#16, 0#16, .tst0AccInd .a0 .r3 .dec),
    (0b1000100010110010#16, 0#16, .tst0AccReg .a0 .b0l),
    (0b1010101010010011#16, 0#16, .tst1AccDirect .a0 0x93),
    (0b1000101110011101#16, 0#16, .tst1AccInd .a1 .r5 .step),
    (0b1000101010100100#16, 0#16, .tst1AccReg .a0 .r4)] = true := by decide +kernel

/-- ALM group (R145). -/
theorem test_decode_alm_2 : allDecode [
    (0b1010110001100000#16, 0#16, .cmpDirect .a0 0x60),
    (0b1000110010011101#16, 0#16, .cmpInd .a0 .r5 .step),
    (0b1000110010110011#16, 0#16, .cmpReg .a0 .b1l),
    (0b1010111010011111#16, 0#16, .subDirect .a0 0x9F),
    (0b1000111010011100#16, 0#16, .subInd .a0 .r4 .step),
    (0b1000111110111001#16, 0#16, .subReg .a1 .a1),
    (0b1011000101111000#16, 0#16, .msuDirect .a1 0x78),
    (0b1001000110010011#16, 0#16, .msuInd .a1 .r3 .dec),
    (0b1001000010111010#16, 0#16, .msuReg .a0 .a0l),
    (0b1011001010110011#16, 0#16, .addhDirect .a0 0xB3),
    (0b1001001010011001#16, 0#16, .addhInd .a0 .r1 .step),
    (0b1001001110110001#16, 0#16, .addhReg .a1 .b1h),
    (0b1011010111100001#16, 0#16, .addlDirect .a1 0xE1),
    (0b1001010110010100#16, 0#16, .addlInd .a1 .r4 .dec),
    (0b1001010010100100#16, 0#16, .addlReg .a0 .r4),
    (0b1011011100101011#16, 0#16, .subhDirect .a1 0x2B),
    (0b1001011110010010#16, 0#16, .subhInd .a1 .r2 .dec),
    (0b1001011110100010#16, 0#16, .subhReg .a1 .r2)] = true := by decide +kernel

/-- ALM group (R145). -/
theorem test_decode_alm_3 : allDecode [
    (0b1011100011000100#16, 0#16, .sublDirect .a0 0xC4),
    (0b1001100110011011#16, 0#16, .sublInd .a1 .r3 .step),
    (0b1001100110110100#16, 0#16, .sublReg .a1 .ext0),
    (0b1011101010000000#16, 0#16, .sqrDirect 0x80),
    (0b1001101010010101#16, 0#16, .sqrInd .r5 .dec),
    (0b1001101010100011#16, 0#16, .sqrReg .r3),
    (0b1011110011110010#16, 0#16, .sqraDirect .a0 0xF2),
    (0b1001110110011100#16, 0#16, .sqraInd .a1 .r4 .step),
    (0b1001110010100010#16, 0#16, .sqraReg .a0 .r2),
    (0b1011111110100110#16, 0#16, .cmpuDirect .a1 0xA6),
    (0b1001111110011011#16, 0#16, .cmpuInd .a1 .r3 .step),
    (0b1001111110111101#16, 0#16, .cmpuReg .a1 .a1h)] = true := by decide +kernel

/-- ALU group (R146). -/
theorem test_decode_alu_1 : allDecode [
    (0b1100000100000110#16, 0#16, .orShort .a1 0x6),
    (0b1000000111000000#16, 0xF0CF#16, .orLong .a1 0xF0CF),
    (0b0100000100010110#16, 0#16, .orRbShort .a1 0x16),
    (0b1101010011011000#16, 0x9C66#16, .orRbLong .a0 0x9C66),
    (0b1101010011111000#16, 0x7E63#16, .orLongDirect .a0 0x7E63),
    (0b1100001011000101#16, 0#16, .andShort .a0 0xC5),
    (0b1000001011000000#16, 0x4996#16, .andLong .a0 0x4996),
    (0b0100001000110011#16, 0#16, .andRbShort .a0 0x33),
    (0b1101010111011001#16, 0x6416#16, .andRbLong .a1 0x6416),
    (0b1101010011111001#16, 0x14A1#16, .andLongDirect .a0 0x14A1),
    (0b1100010101100111#16, 0#16, .xorShort .a1 0x67),
    (0b1000010111000000#16, 0x8CA9#16, .xorLong .a1 0x8CA9),
    (0b0100010001101001#16, 0#16, .xorRbShort .a0 0x69),
    (0b1101010111011010#16, 0x6E37#16, .xorRbLong .a1 0x6E37),
    (0b1101010111111010#16, 0xB4D7#16, .xorLongDirect .a1 0xB4D7),
    (0b1100011110101111#16, 0#16, .addShort .a1 0xAF),
    (0b1000011111000000#16, 0xE25B#16, .addLong .a1 0xE25B),
    (0b0100011000010100#16, 0#16, .addRbShort .a0 0x14)] = true := by decide +kernel

/-- ALU group (R146). -/
theorem test_decode_alu_2 : allDecode [
    (0b1101010011011011#16, 0x153F#16, .addRbLong .a0 0x153F),
    (0b1101010011111011#16, 0x26BC#16, .addLongDirect .a0 0x26BC),
    (0b1100110000000100#16, 0#16, .cmpShort .a0 0x4),
    (0b1000110011000000#16, 0x7C27#16, .cmpLong .a0 0x7C27),
    (0b0100110100100101#16, 0#16, .cmpRbShort .a1 0x25),
    (0b1101010011011110#16, 0x010D#16, .cmpRbLong .a0 0x010D),
    (0b1101010111111110#16, 0x6B41#16, .cmpLongDirect .a1 0x6B41),
    (0b1100111111110100#16, 0#16, .subShort .a1 0xF4),
    (0b1000111011000000#16, 0x2021#16, .subLong .a0 0x2021),
    (0b0100111101110100#16, 0#16, .subRbShort .a1 0x74),
    (0b1101010111011111#16, 0xDEF9#16, .subRbLong .a1 0xDEF9),
    (0b1101010111111111#16, 0x65E8#16, .subLongDirect .a1 0x65E8)] = true := by decide +kernel

/-- moda and modb (R142, R154). -/
theorem test_decode_moda_modb_1 : allDecode [
    (0b0111011100000011#16, 0#16, .shrA .a1 .gt),
    (0b0111011100011100#16, 0#16, .shr4A .a1 .nr),
    (0b0110011100100110#16, 0#16, .shlA .a0 .le),
    (0b0110011100110110#16, 0#16, .shl4A .a0 .le),
    (0b0111011101000101#16, 0#16, .rorA .a1 .lt),
    (0b0110011101011010#16, 0#16, .rolA .a0 .e),
    (0b0110011101100011#16, 0#16, .clrA .a0 .gt),
    (0b0110011110000100#16, 0#16, .notA .a0 .ge),
    (0b0110011110011011#16, 0#16, .negA .a0 .l),
    (0b0110011110100010#16, 0#16, .rndA .a0 .neq),
    (0b0110011110111100#16, 0#16, .pacrA .a0 .nr),
    (0b0110011111001000#16, 0#16, .clrrA .a0 .c),
    (0b0111011111011011#16, 0#16, .incA .a1 .l),
    (0b0111011111100011#16, 0#16, .decA .a1 .gt),
    (0b0110011111111111#16, 0#16, .copyA .a0 .iu1),
    (0b0111111100001111#16, 0#16, .shrB .b1 .iu1),
    (0b0111111100011001#16, 0#16, .shr4B .b1 .v),
    (0b0110111100100100#16, 0#16, .shlB .b0 .ge)] = true := by decide +kernel

/-- moda and modb (R142, R154). -/
theorem test_decode_moda_modb_2 : allDecode [
    (0b0110111100111010#16, 0#16, .shl4B .b0 .e),
    (0b0111111101001111#16, 0#16, .rorB .b1 .iu1),
    (0b0110111101010000#16, 0#16, .rolB .b0 .always),
    (0b0110111101101011#16, 0#16, .clrB .b0 .l)] = true := by decide +kernel

/-- ALB group (R147). -/
theorem test_decode_alb_1 : allDecode [
    (0b1000000011101101#16, 0x2588#16, .setInd 0x2588 .r5 .inc),
    (0b1000000111110001#16, 0xC216#16, .setReg 0xC216 .b1h),
    (0b1110000111111011#16, 0x4C50#16, .setDirect 0x4C50 0xFB),
    (0b1000001011111001#16, 0xA497#16, .rstInd 0xA497 .r1 .step),
    (0b1000001111101001#16, 0xD870#16, .rstReg 0xD870 .st1),
    (0b1110001101011110#16, 0x84B6#16, .rstDirect 0x84B6 0x5E),
    (0b1000010011110010#16, 0xE884#16, .chngInd 0xE884 .r2 .dec),
    (0b1000010111101000#16, 0xC59E#16, .chngReg 0xC59E .st0),
    (0b1110010110001011#16, 0x8858#16, .chngDirect 0x8858 0x8B),
    (0b1000011011110101#16, 0xC771#16, .addvInd 0xC771 .r5 .dec),
    (0b1000011111101000#16, 0xA2EE#16, .addvReg 0xA2EE .st0),
    (0b1110011111010000#16, 0x9CFD#16, .addvDirect 0x9CFD 0xD0),
    (0b1000100011101010#16, 0xC9D5#16, .tst0LongInd 0xC9D5 .r2 .inc),
    (0b1000100111101101#16, 0xD17F#16, .tst0LongReg 0xD17F .sp),
    (0b1110100111001110#16, 0xBD69#16, .tst0LongDirect 0xBD69 0xCE),
    (0b1000101011111010#16, 0x3A0C#16, .tst1LongInd 0x3A0C .r2 .step),
    (0b1000101111101100#16, 0x7E27#16, .tst1LongReg 0x7E27 .pc),
    (0b1110101100001000#16, 0xBB24#16, .tst1LongDirect 0xBB24 0x8)] = true := by decide +kernel

/-- ALB group (R147). -/
theorem test_decode_alb_2 : allDecode [
    (0b1000110011110001#16, 0xFD57#16, .cmpvInd 0xFD57 .r1 .dec),
    (0b1000110111101001#16, 0x78E5#16, .cmpvReg 0x78E5 .st1),
    (0b1110110110110010#16, 0x3193#16, .cmpvDirect 0x3193 0xB2),
    (0b1000111011110011#16, 0x9AEB#16, .subvInd 0x9AEB .r3 .dec),
    (0b1000111111111110#16, 0xCEFF#16, .subvReg 0xCEFF .lc),
    (0b1110111111111101#16, 0xB91F#16, .subvDirect 0xB91F 0xFD)] = true := by decide +kernel

/-- MUL group, msu, mpyi (R148). -/
theorem test_decode_mul_1 : allDecode [
    (0b1000000000110011#16, 0#16, .mpyInd .r3 .dec),
    (0b1000000001000011#16, 0#16, .mpyReg .r3),
    (0b1101000000110001#16, 0#16, .mpyDual .r4 .inc .r1 .dec),
    (0b1000000000001011#16, 0x325C#16, .mpyLong .r3 .inc 0x325C),
    (0b1000000100111100#16, 0#16, .mpysuInd .r4 .step),
    (0b1000000101011101#16, 0#16, .mpysuReg .a1h),
    (0b1101000101011010#16, 0#16, .mpysuDual .r4 .dec .r2 .step),
    (0b1000000100010001#16, 0x15B5#16, .mpysuLong .r1 .dec 0x15B5),
    (0b1000001000101100#16, 0#16, .macInd .a0 .r4 .inc),
    (0b1000101001011010#16, 0#16, .macReg .a1 .a0l),
    (0b1101101001110011#16, 0#16, .macDual .a1 .r4 .step .r3 .dec),
    (0b1000001000001010#16, 0x66C2#16, .macLong .a0 .r2 .inc 0x66C2),
    (0b1000001100101001#16, 0#16, .macusInd .a0 .r1 .inc),
    (0b1000101101011010#16, 0#16, .macusReg .a1 .a0l),
    (0b1101001101101110#16, 0#16, .macusDual .a0 .r5 .step .r2 .inc),
    (0b1000001100001001#16, 0x8C75#16, .macusLong .a0 .r1 .inc 0x8C75),
    (0b1000010000111101#16, 0#16, .maaInd .a0 .r5 .step),
    (0b1000010001001110#16, 0#16, .maaReg .a0 .cfgi)] = true := by decide +kernel

/-- MUL group, msu, mpyi (R148). -/
theorem test_decode_mul_2 : allDecode [
    (0b1101010000101010#16, 0#16, .maaDual .a0 .r4 .inc .r2 .inc),
    (0b1000010000010101#16, 0x4B00#16, .maaLong .a0 .r5 .dec 0x4B00),
    (0b1000110100110101#16, 0#16, .macuuInd .a1 .r5 .dec),
    (0b1000010101000010#16, 0#16, .macuuReg .a0 .r2),
    (0b1101110101111111#16, 0#16, .macuuDual .a1 .r5 .step .r3 .step),
    (0b1000010100011101#16, 0x217A#16, .macuuLong .a0 .r5 .step 0x217A),
    (0b1000011000101100#16, 0#16, .macsuInd .a0 .r4 .inc),
    (0b1000011001011001#16, 0#16, .macsuReg .a0 .a1),
    (0b1101011000111011#16, 0#16, .macsuDual .a0 .r4 .inc .r3 .step),
    (0b1000011000001101#16, 0xB9A7#16, .macsuLong .a0 .r5 .inc 0xB9A7),
    (0b1000111100111101#16, 0#16, .maasuInd .a1 .r5 .step),
    (0b1000111101011010#16, 0#16, .maasuReg .a1 .a0l),
    (0b1101011100110001#16, 0#16, .maasuDual .a0 .r4 .inc .r1 .dec),
    (0b1000011100010101#16, 0x0ACE#16, .maasuLong .a0 .r5 .dec 0x0ACE),
    (0b1110000010010000#16, 0#16, .mpyDirect 0x90),
    (0b1110001011000011#16, 0#16, .macDirect .a0 0xC3),
    (0b1110010001110010#16, 0#16, .maaDirect .a0 0x72),
    (0b1110111010011101#16, 0#16, .macsuDirect .a1 0x9D)] = true := by decide +kernel

/-- MUL group, msu, mpyi (R148). -/
theorem test_decode_mul_3 : allDecode [
    (0b0000100011111010#16, 0#16, .mpyi 0xFA),
    (0b1001000011010011#16, 0x816C#16, .msuLong .a0 .r3 .dec 0x816C),
    (0b1101000111111010#16, 0#16, .msuDual .a1 .r4 .step .r2 .step)] = true := by decide +kernel

/-- other arithmetic rows (R154). -/
theorem test_decode_arithmetic_1 : allDecode [
    (0b1001010011001100#16, 0#16, .norm .a0 .r4 .inc),
    (0b0000111100100000#16, 0#16, .divs .a1 0x20),
    (0b1000001101110000#16, 0#16, .maxd .a1 true .dec),
    (0b1000010001110000#16, 0#16, .max .a0 false .dec),
    (0b1000100001111000#16, 0#16, .min .a0 false .step),
    (0b0100100111100000#16, 0#16, .lim .a1 .a0),
    (0b1001101100111010#16, 0#16, .tstbInd .r2 .step 0xB),
    (0b1001011000010110#16, 0#16, .tstbReg .ext2 0x6),
    (0b1111010100100101#16, 0#16, .tstbDirect 0x25 0x5),
    (0b1101011011100111#16, 0#16, .shfc .b1 .a1 .nn),
    (0b1001001111111001#16, 0#16, .shfi .b0 .a1 0x39),
    (0b1001100101011010#16, 0#16, .expInd .r2 .step (some .a1)),
    (0b1001000001000110#16, 0#16, .expReg .rb (some .a0)),
    (0b1001000101100001#16, 0#16, .expAcc .b1 (some .a1)),
    (0b1001110001010011#16, 0#16, .expInd .r3 .dec none),
    (0b1001010001000111#16, 0#16, .expReg .y none),
    (0b1001010001100001#16, 0#16, .expAcc .b1 none),
    (0b0000000100001011#16, 0#16, .movsReg .p .b0)] = true := by decide +kernel

/-- other arithmetic rows (R154). -/
theorem test_decode_arithmetic_2 : allDecode [
    (0b0000000111001011#16, 0#16, .movsInd .r3 .inc .a0),
    (0b0111101110001110#16, 0#16, .movsDirect 0x8E .a1),
    (0b0100111010001101#16, 0#16, .movsi .y .b0 0xD)] = true := by decide +kernel

/-- move rows (R155). -/
theorem test_decode_move_1 : allDecode [
    (0b0101101000101011#16, 0#16, .movRegReg .p .b1h),
    (0b1101101010010000#16, 0#16, .movAccAcc .a0 .b0),
    (0b1101001010011000#16, 0#16, .movAccDvm .b0),
    (0b1101011011011000#16, 0#16, .movAccX .b1),
    (0b0101111011011101#16, 0#16, .movRegB .a1h .b0),
    (0b0101111010000011#16, 0#16, .movRegMixp .r3),
    (0b0001100100101011#16, 0#16, .movRegInd .st1 .r3 .inc),
    (0b0100011111011101#16, 0#16, .movMixpReg .a1h),
    (0b1101010010110000#16, 0#16, .movSpecAcc .repc .b1),
    (0b1101010011010001#16, 0#16, .movSpecAcc .dvm .a0),
    (0b1101010010110010#16, 0#16, .movIcrAcc .b1),
    (0b1101010011110011#16, 0#16, .movSpecAcc .x .a1),
    (0b0001110010110011#16, 0#16, .movIndReg .r3 .dec .r5),
    (0b1001100111011101#16, 0#16, .movIndB .r5 .step .b1),
    (0b0100011111110111#16, 0#16, .movSpReg .ext3),
    (0b0010101000010111#16, 0#16, .movRnDirect .r5 0x17),
    (0b0011100011001101#16, 0#16, .movHalfDirect .a0 .lo 0xCD),
    (0b0110100010110001#16, 0#16, .movDirectRn 0xB1 .r2)] = true := by decide +kernel

/-- move rows (R155). -/
theorem test_decode_move_2 : allDecode [
    (0b0110000101101101#16, 0#16, .movDirectAcc 0x6D .b0),
    (0b0110001001000101#16, 0#16, .movDirectHalf 0x45 .b0 .lo),
    (0b0111010111001110#16, 0#16, .movDirectHighEu 0xCE .a1),
    (0b0110110100010110#16, 0#16, .movDirectSv 0x16),
    (0b0111110110011100#16, 0#16, .movSvDirect 0x9C),
    (0b1101010010111000#16, 0xDB32#16, .movLongDirectA 0xDB32 .a0),
    (0b1101010110111100#16, 0x110F#16, .movALongDirect .a1 0x110F),
    (0b0101111000000100#16, 0xDCDF#16, .movLongReg 0xDCDF .r4),
    (0b0101111000100000#16, 0x742B#16, .movLongB 0x742B .b0),
    (0b0011000101010111#16, 0#16, .movShortHalf 0x57 .a1 .lo),
    (0b0011010111101110#16, 0#16, .movShortHalf 0xEE .a1 .hi),
    (0b0010101110100000#16, 0#16, .movShortRn 0xA0 .r2),
    (0b0011110100001100#16, 0#16, .movShortExt 0xC 3),
    (0b0000010110110110#16, 0#16, .movShortSv 0xB6),
    (0b0100111111001000#16, 0#16, .movRegIcr .st0),
    (0b0100111110011111#16, 0#16, .movShortIcr 0x1F),
    (0b1101100010001111#16, 0#16, .movRbShortA 0xF .a0),
    (0b1101110110000111#16, 0#16, .movARbShort .a1 0x7)] = true := by decide +kernel

/-- move rows (R155). -/
theorem test_decode_move_3 : allDecode [
    (0b1101010010011000#16, 0x2E60#16, .movRbLongA 0x2E60 .a0),
    (0b1101010110011100#16, 0xEEA8#16, .movARbLong .a1 0xEEA8),
    (0b0000000001110001#16, 0#16, .movpAccReg .a1 .b1h),
    (0b0000011111110010#16, 0#16, .movpIndInd .r2 .dec .r3 .step),
    (0b1001110011010110#16, 0#16, .movrReg .ext2 .a0),
    (0b1001110011110011#16, 0#16, .movrInd .r3 .dec .a0),
    (0b0101111001001001#16, 0#16, .pushReg .st1),
    (0b0101111101000000#16, 0x0976#16, .pushLong 0x0976),
    (0b0101111001100001#16, 0#16, .pop .r1),
    (0b0100100110000000#16, 0#16, .swap .a0b0),
    (0b0100101110001100#16, 0#16, .banke 0xC),
    (0b0101111110111101#16, 0#16, .movd .r1 .step .r5 .inc),
    (0b0000000010101100#16, 0#16, .modr .r4 .inc true),
    (0b0000010010101001#16, 0#16, .loadPage 0xA9),
    (0b0000101100011000#16, 0#16, .loadMod true 0x118),
    (0b1101111111111101#16, 0#16, .loadStep true 0x7D),
    (0b0100110110000011#16, 0#16, .loadPs 0x3)] = true := by decide +kernel

/-- program control rows (R156). -/
theorem test_decode_control_1 : allDecode [
    (0b0000110100001010#16, 0#16, .repReg .st2),
    (0b0000110010110001#16, 0#16, .repShort 0xB1),
    (0b0101110011111100#16, 0x3717#16, .bkrepShort 0xFC 0x3717),
    (0b0101110100001011#16, 0x3AC5#16, .bkrepReg .p 0x3AC5),
    (0b1101001111000000#16, 0#16, .brk),
    (0b0100000110000100#16, 0x32DA#16, .br 0x32DA .ge),
    (0b0101001101001011#16, 0#16, .brr 0x34 .l),
    (0b0100000111000001#16, 0xFB5D#16, .call 0xFB5D .eq),
    (0b0001011011000100#16, 0#16, .callr 0x6C .ge),
    (0b1101010010000000#16, 0#16, .calla .a0),
    (0b0100010110000010#16, 0#16, .ret .neq),
    (0b1101011110000000#16, 0#16, .retd),
    (0b0100010111011000#16, 0#16, .reti .c true),
    (0b1101011111000000#16, 0#16, .retid),
    (0b1101001110000000#16, 0#16, .cntx false),
    (0b0000100100001111#16, 0#16, .rets 0xF),
    (0b0000000000000000#16, 0#16, .nop),
    (0b0100001110000000#16, 0#16, .eint)] = true := by decide +kernel

/-- program control rows (R156). -/
theorem test_decode_control_2 : allDecode [
    (0b0100001111000000#16, 0#16, .dint),
    (0b0000000000100000#16, 0#16, .trap)] = true := by decide +kernel

/-- The reserved codes: an unlisted opcode, a reserved rN field, a reserved swap option, a reserved moda function (R132,
R137, R142, R143). -/
theorem test_decode_reserved :
    decode 0b1000010010000110#16 0 = .error .reservedAddressRegister ∧
      decode 0b0100100110001110#16 0 = .error .reservedSwapOption ∧
      decode 0b0110011101110000#16 0 = .error .reservedOpcode := by decide +kernel

/-! ## One step, from the vectors of spec/95, 96 and 97 -/

/-- `or a1, a0`, spec/96_test_vectors_arithmetic.md. -/
theorem test_or : runs 0x80B9 0x0
    { start with regs := { start.regs with a0 := 0x1#36, a1 := 0x800000000#36 } }
    (fun t => t.regs.a0 == 0x800000001#36 &&
      t.fl == { t.fl with z := false, m := true, n := false, e := true }) =
      true := by decide +kernel

/-- `and a1, a0`, spec/95_test_vectors.md. -/
theorem test_and : runs 0x82B9 0x0
    { start with regs := { start.regs with a0 := 0xF1234ABCD#36, a1 := 0x8FFFF0000#36 } }
    (fun t => t.regs.a0 == 0x812340000#36 &&
      t.fl == { t.fl with z := false, m := true, n := false, e := true }) =
      true := by decide +kernel

/-- `xor a0, a1`, spec/96_test_vectors_arithmetic.md. -/
theorem test_xor : runs 0x85B8 0x0
    { start with regs := { start.regs with a0 := 0xFFFFFFFFF#36, a1 := 0xF0F0F0F0#36 } }
    (fun t => t.regs.a1 == 0xF0F0F0F0F#36 &&
      t.fl == { t.fl with z := false, m := true, n := false, e := true }) =
      true := by decide +kernel

/-- `add (r2)+s, a1`, spec/96_test_vectors_arithmetic.md. -/
theorem test_add : runs 0x879A 0x0
    { start with
      regs := { start.regs with a1 := 0x5#36, r2 := 0x200#16, cfgi := 0x3#16 }
      data := [(0x400, 0xFF), (0x401, 0xFF)] }
    (fun t => 
      t.regs.a1 == 0x4#36 && t.regs.r2 == 0x203#16 &&
      t.fl == { t.fl with z := false, m := false, n := false, v := false, c := true, e := false, l := false }) =
      true := by decide +kernel

/-- `tst0 a0l, r3`, spec/97_test_vectors_move_control_devices.md. -/
theorem test_tst0 : runs 0x88A3 0x0
    { start with
      regs := { start.regs with a0 := 0xF0#36, r3 := 0xF0F#16 }
      fl := { start.fl with z := false } }
    (fun t => t.regs.a0 == 0xF0#36 && t.fl == { t.fl with z := true }) =
      true := by decide +kernel

/-- `tst1 a0l, r3`, spec/97_test_vectors_move_control_devices.md. -/
theorem test_tst1 : runs 0x8AA3 0x0
    { start with
      regs := { start.regs with a0 := 0xF0#36, r3 := 0xF70#16 }
      fl := { start.fl with z := true } }
    (fun t => t.fl == { t.fl with z := false }) =
      true := by decide +kernel

/-- `cmp (r3)-, a0`, spec/96_test_vectors_arithmetic.md. -/
theorem test_cmp : runs 0x8C93 0x0
    { start with
      regs := { start.regs with a0 := 0x3#36, r3 := 0x300#16 }
      data := [(0x600, 0x4)] }
    (fun t => 
      t.regs.a0 == 0x3#36 && t.regs.r3 == 0x2FF#16 &&
      t.fl == { t.fl with z := false, m := true, n := false, v := false, c := true, e := false, l := false }) =
      true := by decide +kernel

/-- `sub r0, a0`, spec/96_test_vectors_arithmetic.md. -/
theorem test_sub : runs 0x8EA0 0x0
    { start with
      regs := { start.regs with a0 := 0x800000000#36, r0 := 0x1#16 }
      fl := { start.fl with l := false } }
    (fun t => 
      t.regs.a0 == 0x7FFFFFFFF#36 &&
      t.fl == { t.fl with z := false, m := false, n := false, v := true, c := false, e := true, l := true }) =
      true := by decide +kernel

/-- `msu (r5)-, (r3)-, a1`, spec/96_test_vectors_arithmetic.md. -/
theorem test_msu : runs 0xD1D7 0x0
    { start with
      regs := { start.regs with a1 := 0x0#36, p := 0x1#32, r5 := 0xFFFF#16, r3 := 0x1#16 }
      md := { start.md with ps := 0#2 }
      data := [(0x2, 0xFF), (0x3, 0x7F), (0x1FFFE, 0xFF), (0x1FFFF, 0x7F)] }
    (fun t => 
      t.regs.a1 == 0xFFFFFFFFF#36 && t.regs.p == 0x3FFF0001#32 && t.regs.r5 == 0xFFFE#16 &&
      t.regs.r3 == 0x0#16 &&
      t.fl == { t.fl with z := false, m := true, n := false, v := false, c := true, e := false, l := false }) =
      true := by decide +kernel

/-- `addh r1, a0`, spec/96_test_vectors_arithmetic.md. -/
theorem test_addh : runs 0x92A1 0x0
    { start with regs := { start.regs with a0 := 0x7FFF1234#36, r1 := 0x1#16 } }
    (fun t => 
      t.regs.a0 == 0x80001234#36 &&
      t.fl == { t.fl with z := false, m := false, n := false, v := false, c := false, e := true, l := false }) =
      true := by decide +kernel

/-- `addl r0, a0`, spec/96_test_vectors_arithmetic.md. -/
theorem test_addl : runs 0x94A0 0x0
    { start with regs := { start.regs with a0 := 0xFFFFFFFFF#36, r0 := 0xFFFF#16 } }
    (fun t => 
      t.regs.a0 == 0xFFFE#36 &&
      t.fl == { t.fl with z := false, m := false, n := false, v := false, c := true, e := false, l := false }) =
      true := by decide +kernel

/-- `subh r1, a0`, spec/96_test_vectors_arithmetic.md. -/
theorem test_subh : runs 0x96A1 0x0
    { start with regs := { start.regs with a0 := 0x0#36, r1 := 0x8000#16 } }
    (fun t => 
      t.regs.a0 == 0x80000000#36 &&
      t.fl == { t.fl with z := false, m := false, n := false, v := false, c := true, e := true, l := false }) =
      true := by decide +kernel

/-- `subl r0, a0`, spec/96_test_vectors_arithmetic.md. -/
theorem test_subl : runs 0x98A0 0x0
    { start with regs := { start.regs with a0 := 0x0#36, r0 := 0xFFFF#16 } }
    (fun t => 
      t.regs.a0 == 0xFFFFF0001#36 &&
      t.fl == { t.fl with z := false, m := true, n := false, v := false, c := true, e := false, l := false }) =
      true := by decide +kernel

/-- `sqr 0x20`, spec/96_test_vectors_arithmetic.md. -/
theorem test_sqr : runs 0xBA20 0x0
    { start with
      md := { start.md with page := 0x0#8 }
      data := [(0x41, 0x1)] }
    (fun t => t.regs.x == 0x100#16 && t.regs.y == 0x100#16 && t.regs.p == 0x10000#32) =
      true := by decide +kernel

/-- `sqra (r2)+, a0`, spec/96_test_vectors_arithmetic.md. -/
theorem test_sqra : runs 0x9C8A 0x0
    { start with
      regs := { start.regs with a0 := 0x1#36, p := 0x9#32, r2 := 0x100#16 }
      md := { start.md with ps := 0#2 }
      data := [(0x200, 0xFC), (0x201, 0xFF)] }
    (fun t => 
      t.regs.a0 == 0xA#36 && t.regs.x == 0xFFFC#16 && t.regs.y == 0xFFFC#16 && t.regs.p == 0x10#32 &&
      t.regs.r2 == 0x101#16 &&
      t.fl == { t.fl with z := false, m := false, n := false, v := false, c := false, e := false, l := false }) =
      true := by decide +kernel

/-- `cmpu r0, a0`, spec/96_test_vectors_arithmetic.md. -/
theorem test_cmpu : runs 0x9EA0 0x0
    { start with regs := { start.regs with a0 := 0xFFFFFFFFF#36, r0 := 0xFFFF#16 } }
    (fun t => 
      t.regs.a0 == 0xFFFFFFFFF#36 &&
      t.fl == { t.fl with z := false, m := true, n := false, v := false, c := false, e := false, l := false }) =
      true := by decide +kernel

/-- `shr a0`, spec/95_test_vectors.md. -/
theorem test_shr : runs 0x6700 0x0
    { start with
      regs := { start.regs with a0 := 0x800000001#36 }
      md := { start.md with s := false } }
    (fun t => 
      t.regs.a0 == 0xC00000000#36 &&
      t.fl == { t.fl with z := false, m := true, n := false, v := false, c := true, e := true, l := false }) =
      true := by decide +kernel

/-- `shr4 a1, lt`, spec/96_test_vectors_arithmetic.md. -/
theorem test_shr4 : runs 0x7715 0x0
    { start with
      regs := { start.regs with a1 := 0x100#36 }
      fl := { start.fl with m := false } }
    (fun t => 
      t.regs.a1 == 0x100#36 &&
      t.fl == { t.fl with z := false, m := false, n := false, v := false, c := false, e := false, l := false }) =
      true := by decide +kernel

/-- `shl a0`, spec/96_test_vectors_arithmetic.md. -/
theorem test_shl : runs 0x6720 0x0
    { start with
      regs := { start.regs with a0 := 0x400000000#36 }
      fl := { start.fl with v := false, l := false }
      md := { start.md with s := true } }
    (fun t => 
      t.regs.a0 == 0x800000000#36 &&
      t.fl == { t.fl with z := false, m := true, n := false, v := false, c := false, e := true, l := false }) =
      true := by decide +kernel

/-- `shl4 a0`, spec/96_test_vectors_arithmetic.md. -/
theorem test_shl4 : runs 0x6730 0x0
    { start with
      regs := { start.regs with a0 := 0xFF8000000#36 }
      fl := { start.fl with l := false }
      md := { start.md with s := false } }
    (fun t => 
      t.regs.a0 == 0xF80000000#36 &&
      t.fl == { t.fl with z := false, m := true, n := true, v := false, c := true, e := false, l := false }) =
      true := by decide +kernel

/-- `ror a0`, spec/96_test_vectors_arithmetic.md. -/
theorem test_ror : runs 0x6740 0x0
    { start with
      regs := { start.regs with a0 := 0x1#36 }
      fl := { start.fl with c := false } }
    (fun t => t.regs.a0 == 0x0#36 &&
      t.fl == { t.fl with z := true, m := false, n := true, c := true, e := false }) =
      true := by decide +kernel

/-- `rol a0`, spec/96_test_vectors_arithmetic.md. -/
theorem test_rol : runs 0x6750 0x0
    { start with
      regs := { start.regs with a0 := 0x800000000#36 }
      fl := { start.fl with c := false } }
    (fun t => t.regs.a0 == 0x0#36 &&
      t.fl == { t.fl with z := true, m := false, n := true, c := true, e := false }) =
      true := by decide +kernel

/-- `clr a1`, spec/96_test_vectors_arithmetic.md. -/
theorem test_clr : runs 0x7760 0x0
    { start with
      regs := { start.regs with a1 := 0x123456789#36 }
      fl := { start.fl with v := true, c := true } }
    (fun t => 
      t.regs.a1 == 0x0#36 &&
      t.fl == { t.fl with z := true, m := false, n := true, v := true, c := true, e := false, l := false }) =
      true := by decide +kernel

/-- `not a0`, spec/96_test_vectors_arithmetic.md. -/
theorem test_not : runs 0x6780 0x0
    { start with regs := { start.regs with a0 := 0xFFFFFFFF#36 } }
    (fun t => t.regs.a0 == 0xF00000000#36 &&
      t.fl == { t.fl with z := false, m := true, n := false, e := true }) =
      true := by decide +kernel

/-- `neg a0`, spec/96_test_vectors_arithmetic.md. -/
theorem test_neg : runs 0x6790 0x0
    { start with
      regs := { start.regs with a0 := 0x800000000#36 }
      fl := { start.fl with l := false } }
    (fun t => 
      t.regs.a0 == 0x800000000#36 &&
      t.fl == { t.fl with z := false, m := true, n := false, v := true, c := true, e := true, l := true }) =
      true := by decide +kernel

/-- `rnd a0`, spec/96_test_vectors_arithmetic.md. -/
theorem test_rnd : runs 0x67A0 0x0
    { start with
      regs := { start.regs with a0 := 0x7FFFF8000#36 }
      fl := { start.fl with l := false } }
    (fun t => 
      t.regs.a0 == 0x800000000#36 &&
      t.fl == { t.fl with z := false, m := true, n := false, v := true, c := false, e := true, l := true }) =
      true := by decide +kernel

/-- `pacr a0`, spec/96_test_vectors_arithmetic.md. -/
theorem test_pacr : runs 0x67B0 0x0
    { start with
      regs := { start.regs with a0 := 0x5#36, p := 0x7FFF8000#32 }
      md := { start.md with ps := 0#2 } }
    (fun t => 
      t.regs.a0 == 0x80000000#36 &&
      t.fl == { t.fl with z := false, m := false, n := false, v := false, c := false, e := true, l := false }) =
      true := by decide +kernel

/-- `clrr a0`, spec/96_test_vectors_arithmetic.md. -/
theorem test_clrr : runs 0x67C0 0x0
    { start with regs := { start.regs with a0 := 0xFFFFFFFFF#36 } }
    (fun t => t.regs.a0 == 0x8000#36 &&
      t.fl == { t.fl with z := false, m := false, n := false, e := false }) =
      true := by decide +kernel

/-- `inc a0`, spec/96_test_vectors_arithmetic.md. -/
theorem test_inc : runs 0x67D0 0x0
    { start with
      regs := { start.regs with a0 := 0x7FFFFFFFF#36 }
      fl := { start.fl with l := false } }
    (fun t => 
      t.regs.a0 == 0x800000000#36 &&
      t.fl == { t.fl with z := false, m := true, n := false, v := true, c := false, e := true, l := true }) =
      true := by decide +kernel

/-- `dec a0`, spec/96_test_vectors_arithmetic.md. -/
theorem test_dec : runs 0x67E0 0x0
    { start with
      regs := { start.regs with a0 := 0x800000000#36 }
      fl := { start.fl with l := false } }
    (fun t => 
      t.regs.a0 == 0x7FFFFFFFF#36 &&
      t.fl == { t.fl with z := false, m := false, n := false, v := true, c := false, e := true, l := true }) =
      true := by decide +kernel

/-- `copy a0`, spec/96_test_vectors_arithmetic.md. -/
theorem test_copy : runs 0x67F0 0x0
    { start with
      regs := { start.regs with a0 := 0x40000000#36 }
      fl := { start.fl with z := true, m := true, n := false, e := true } }
    (fun t => t.regs.a0 == 0x40000000#36 &&
      t.fl == { t.fl with z := false, m := false, n := true, e := false }) =
      true := by decide +kernel

/-- `norm a1, (r3)-`, spec/96_test_vectors_arithmetic.md. -/
theorem test_norm : runs 0x95D3 0x0
    { start with
      regs := { start.regs with a1 := 0x400000000#36, r3 := 0x5#16 }
      fl := { start.fl with n := false, l := false } }
    (fun t => 
      t.regs.a1 == 0x800000000#36 && t.regs.r3 == 0x4#16 &&
      t.fl == { t.fl with z := false, m := true, n := false, v := true, c := false, e := true, l := true, r := false }) =
      true := by decide +kernel

/-- `divs 0x10, a0 (1 step)`, spec/95_test_vectors.md. -/
theorem test_divs : runs 0x0E10 0x0
    { start with
      regs := { start.regs with a0 := 0x7#36 }
      md := { start.md with page := 0x0#8 }
      data := [(0x20, 0x2)] }
    (fun t => 
      t.regs.a0 == 0xE#36 && t.fl == { t.fl with z := false, m := false, n := false, e := false }) =
      true := by decide +kernel

/-- `set ##0x8000, 0x20`, spec/95_test_vectors.md. -/
theorem test_set : runs 0xE120 0x8000
    { start with
      md := { start.md with page := 0x0#8 }
      data := [(0x40, 0x1)] }
    (fun t => memWord t.data 0x0020#16 == 0x8001#16 &&
      t.fl == { t.fl with z := false, m := true, c := false }) =
      true := by decide +kernel

/-- `rst ##0x00F0, (r1)+`, spec/97_test_vectors_move_control_devices.md. -/
theorem test_rst : runs 0x82E9 0xF0
    { start with
      regs := { start.regs with r1 := 0x300#16 }
      data := [(0x600, 0xFF)] }
    (fun t => memWord t.data 0x0300#16 == 0xF#16 && t.regs.r1 == 0x301#16 &&
      t.fl == { t.fl with z := false, m := false }) =
      true := by decide +kernel

/-- `chng ##0x0080, st2`, spec/97_test_vectors_move_control_devices.md. -/
theorem test_chng : runs 0x85EA 0x80
    (writeSt2 0x0#16 start)
    (fun t => 
      st2Image t == 0x80#16 && t.md.s == true && t.fl == { t.fl with z := false, m := false }) =
      true := by decide +kernel

/-- `addv ##0x1000, st0`, spec/97_test_vectors_move_control_devices.md. -/
theorem test_addv : runs 0x87E8 0x1000
    { (writeSt0 0xF002#16 start) with regs := { (writeSt0 0xF002#16 start).regs with a0 := 0xF00000000#36 } }
    (fun t => st0Image t == 0x2#16 && t.regs.a0 == 0x0#36) =
      true := by decide +kernel

/-- `cmpv ##0x8000, (r0)+`, spec/97_test_vectors_move_control_devices.md. -/
theorem test_cmpv : runs 0x8CE8 0x8000
    { start with
      regs := { start.regs with r0 := 0x200#16 }
      data := [(0x400, 0xFF), (0x401, 0x7F)] }
    (fun t => 
      t.regs.r0 == 0x201#16 && t.fl == { t.fl with z := false, m := true, c := true }) =
      true := by decide +kernel

/-- `subv ##0x0010, (r4)-`, spec/97_test_vectors_move_control_devices.md. -/
theorem test_subv : runs 0x8EF4 0x10
    { start with
      regs := { start.regs with r4 := 0xF810#16 }
      data := [(0x1F020, 0x10)] }
    (fun t => memWord t.data 0xF810#16 == 0x0#16 && t.regs.r4 == 0xF80F#16 &&
      t.fl == { t.fl with z := true, m := false, c := false }) =
      true := by decide +kernel

/-- `maxd a0, (r0)+, gt`, spec/96_test_vectors_arithmetic.md. -/
theorem test_maxd : runs 0x8268 0x0
    { start with
      regs := { start.regs with a0 := 0x10#36, r0 := 0x200#16, mixp := 0x0#16 }
      data := [(0x400, 0x20)] }
    (fun t => t.regs.a0 == 0x20#36 && t.regs.mixp == 0x200#16 && t.regs.r0 == 0x201#16 &&
      t.fl == { t.fl with m := true }) =
      true := by decide +kernel

/-- `max a1, (r0)-, gt`, spec/96_test_vectors_arithmetic.md. -/
theorem test_max : runs 0x8770 0x0
    { start with regs := { start.regs with a0 := 0xFFFFFFFFF#36, a1 := 0x800000000#36, r0 := 0x100#16, mixp := 0x0#16 } }
    (fun t => t.regs.a1 == 0xFFFFFFFFF#36 && t.regs.mixp == 0x100#16 && t.regs.r0 == 0xFF#16 &&
      t.fl == { t.fl with m := true }) =
      true := by decide +kernel

/-- `min a0, (r0), lt`, spec/96_test_vectors_arithmetic.md. -/
theorem test_min : runs 0x8A60 0x0
    { start with regs := { start.regs with a0 := 0x5#36, a1 := 0xFFFFFFFFE#36, r0 := 0x42#16, mixp := 0x0#16 } }
    (fun t => t.regs.a0 == 0xFFFFFFFFE#36 && t.regs.mixp == 0x42#16 && t.regs.r0 == 0x42#16 &&
      t.fl == { t.fl with m := true }) =
      true := by decide +kernel

/-- `lim a0, a1`, spec/96_test_vectors_arithmetic.md. -/
theorem test_lim : runs 0x49D0 0x0
    { start with
      regs := { start.regs with a0 := 0x123456789#36, a1 := 0x0#36 }
      fl := { start.fl with l := false } }
    (fun t => t.regs.a0 == 0x123456789#36 && t.regs.a1 == 0x7FFFFFFF#36 &&
      t.fl == { t.fl with z := false, m := false, n := true, e := false, l := true }) =
      true := by decide +kernel

/-- `mpy (r4)+, (r0)+`, spec/96_test_vectors_arithmetic.md. -/
theorem test_mpy : runs 0xD028 0x0
    { start with
      regs := { start.regs with r4 := 0xF800#16, r0 := 0x100#16 }
      data := [(0x200, 0x3), (0x1F000, 0x2)] }
    (fun t => t.regs.y == 0x2#16 && t.regs.x == 0x3#16 && t.regs.p == 0x6#32 && t.regs.r4 == 0xF801#16 &&
      t.regs.r0 == 0x101#16) =
      true := by decide +kernel

/-- `mpysu y, r0`, spec/96_test_vectors_arithmetic.md. -/
theorem test_mpysu : runs 0x8140 0x0
    { start with regs := { start.regs with y := 0xFFFF#16, r0 := 0xFFFF#16 } }
    (fun t => t.regs.p == 0xFFFF0001#32) =
      true := by decide +kernel

/-- `mac (r4)+, (r0)+s, a0`, spec/96_test_vectors_arithmetic.md. -/
theorem test_mac_1 : runs 0xD238 0x0
    { start with
      regs := { start.regs with a0 := 0x0#36, p := 0xFFFFFFFF#32, r4 := 0xF801#16, r0 := 0x100#16, cfgi := 0x2#16 }
      md := { start.md with ps := 0#2 }
      data := [(0x200, 0x10), (0x1F002, 0x10)] }
    (fun t => 
      t.regs.a0 == 0xFFFFFFFFF#36 && t.regs.y == 0x10#16 && t.regs.x == 0x10#16 &&
      t.regs.p == 0x100#32 && t.regs.r4 == 0xF802#16 && t.regs.r0 == 0x102#16 &&
      t.fl == { t.fl with z := false, m := true, n := false, v := false, c := false, e := false, l := false }) =
      true := by decide +kernel

/-- `mac y, (r0)+, a0`, spec/96_test_vectors_arithmetic.md. -/
theorem test_mac_2 : runs 0x8228 0x0
    { start with
      regs := { start.regs with a0 := 0x10#36, p := 0x6#32, y := 0x2#16, r0 := 0x100#16 }
      md := { start.md with ps := 0#2 }
      data := [(0x200, 0x5)] }
    (fun t => 
      t.regs.a0 == 0x16#36 && t.regs.x == 0x5#16 && t.regs.p == 0xA#32 && t.regs.r0 == 0x101#16 &&
      t.fl == { t.fl with z := false, m := false, n := false, v := false, c := false, e := false, l := false }) =
      true := by decide +kernel

/-- `macus y, r0, a0`, spec/96_test_vectors_arithmetic.md. -/
theorem test_macus : runs 0x8340 0x0
    { start with regs := { start.regs with a0 := 0x0#36, p := 0x0#32, y := 0x8000#16, r0 := 0xFFFF#16 } }
    (fun t => t.regs.a0 == 0x0#36 && t.regs.p == 0xFFFF8000#32) =
      true := by decide +kernel

/-- `maa y, r0, a0`, spec/96_test_vectors_arithmetic.md. -/
theorem test_maa : runs 0x8440 0x0
    { start with
      regs := { start.regs with a0 := 0x0#36, p := 0xFFFF0000#32, y := 0x1#16, r0 := 0x1#16 }
      md := { start.md with ps := 0#2 } }
    (fun t => 
      t.regs.a0 == 0xFFFFFFFFF#36 && t.regs.p == 0x1#32 &&
      t.fl == { t.fl with z := false, m := true, n := false, v := false, c := false, e := false, l := false }) =
      true := by decide +kernel

/-- `macsu y, r0, a0`, spec/96_test_vectors_arithmetic.md. -/
theorem test_macsu : runs 0x8640 0x0
    { start with regs := { start.regs with a0 := 0x0#36, p := 0x0#32, y := 0xFFFF#16, r0 := 0x8000#16 } }
    (fun t => t.regs.a0 == 0x0#36 && t.regs.p == 0xFFFF8000#32) =
      true := by decide +kernel

/-- `maasu y, r0, a1`, spec/96_test_vectors_arithmetic.md. -/
theorem test_maasu : runs 0x8F40 0x0
    { start with
      regs := { start.regs with a1 := 0x0#36, p := 0x20000#32, y := 0xFFFF#16, r0 := 0xFFFF#16 }
      md := { start.md with ps := 0#2 } }
    (fun t => 
      t.regs.a1 == 0x2#36 && t.regs.p == 0xFFFF0001#32 &&
      t.fl == { t.fl with z := false, m := false, n := false, v := false, c := false, e := false, l := false }) =
      true := by decide +kernel

/-- `mpyi y, #-128`, spec/96_test_vectors_arithmetic.md. -/
theorem test_mpyi : runs 0x0880 0x0
    { start with regs := { start.regs with y := 0x2#16 } }
    (fun t => t.regs.x == 0xFF80#16 && t.regs.p == 0xFFFFFF00#32) =
      true := by decide +kernel

/-- `tstb (r2)+, #15`, spec/97_test_vectors_move_control_devices.md. -/
theorem test_tstb : runs 0x9F2A 0x0
    { start with
      regs := { start.regs with r2 := 0x400#16 }
      fl := { start.fl with z := true }
      data := [(0x800, 0xFF), (0x801, 0x7F)] }
    (fun t => t.regs.r2 == 0x401#16 && t.fl == { t.fl with z := false }) =
      true := by decide +kernel

/-- `shfc b0, a1`, spec/96_test_vectors_arithmetic.md. -/
theorem test_shfc : runs 0xD2E0 0x0
    { start with
      regs := { start.regs with b0 := 0x123456789#36, a1 := 0x0#36, sv := 0x0#16 }
      fl := { start.fl with c := true, v := true }
      md := { start.md with s := false } }
    (fun t => 
      t.regs.a1 == 0x123456789#36 && t.regs.b0 == 0x123456789#36 &&
      t.fl == { t.fl with z := false, m := false, n := false, v := false, c := false, e := true, l := false }) =
      true := by decide +kernel

/-- `shfi b0, a0, #-4`, spec/96_test_vectors_arithmetic.md. -/
theorem test_shfi : runs 0x937C 0x0
    { start with
      regs := { start.regs with b0 := 0xFFFFFFF00#36, a0 := 0x0#36 }
      md := { start.md with s := false } }
    (fun t => 
      t.regs.a0 == 0xFFFFFFFF0#36 && t.regs.b0 == 0xFFFFFFF00#36 &&
      t.fl == { t.fl with z := false, m := true, n := false, v := false, c := false, e := false, l := false }) =
      true := by decide +kernel

/-- `exp r0, a1`, spec/96_test_vectors_arithmetic.md. -/
theorem test_exp_1 : runs 0x9140 0x0
    { start with
      regs := { start.regs with r0 := 0x123#16, a1 := 0xFFFFFFFFF#36 }
      fl := { start.fl with z := false, m := true } }
    (fun t => 
      t.regs.sv == 0x6#16 && t.regs.a1 == 0x6#36 && t.fl == { t.fl with z := false, m := true }) =
      true := by decide +kernel

/-- `exp (r2)+, sv`, spec/96_test_vectors_arithmetic.md. -/
theorem test_exp_2 : runs 0x9C4A 0x0
    { start with
      regs := { start.regs with r2 := 0x500#16, sv := 0x0#16 }
      data := [(0xA01, 0xF0)] }
    (fun t => t.regs.sv == 0x3#16 && t.regs.r2 == 0x501#16) =
      true := by decide +kernel

/-- `mov a0h, (r0)+`, spec/97_test_vectors_move_control_devices.md. -/
theorem test_mov_1 : runs 0x1B88 0x0
    { start with
      regs := { start.regs with a0 := 0x7FFFFFFFF#36, r0 := 0x200#16 }
      md := { start.md with sat := false } }
    (fun t => memWord t.data 0x0200#16 == 0x7FFF#16 && t.regs.r0 == 0x201#16 &&
      t.fl == { t.fl with l := true }) =
      true := by decide +kernel

/-- `mov a0h, r1`, spec/97_test_vectors_move_control_devices.md. -/
theorem test_mov_2 : runs 0x583C 0x0
    { start with
      regs := { start.regs with a0 := 0x80001234#36, r1 := 0x0#16 }
      md := { start.md with sat := false } }
    (fun t => t.regs.r1 == 0x7FFF#16 && t.regs.a0 == 0x80001234#36 &&
      t.fl == { t.fl with z := false, m := false, n := false, l := true }) =
      true := by decide +kernel

/-- `movp (r4)+, (r1)+`, spec/97_test_vectors_move_control_devices.md. -/
theorem test_movp : runs 0x06AC 0x0
    { start with
      regs := { start.regs with r4 := 0x300#16, r1 := 0x200#16 }
      prog := [(0x600, 0x34), (0x601, 0x12)] }
    (fun t => 
      memWord t.data 0x0200#16 == 0x1234#16 && t.regs.r4 == 0x301#16 && t.regs.r1 == 0x201#16) =
      true := by decide +kernel

/-- `movs 0x40, a1`, spec/96_test_vectors_arithmetic.md. -/
theorem test_movs : runs 0x7B40 0x0
    { start with
      regs := { start.regs with sv := 0x14#16 }
      fl := { start.fl with l := false }
      md := { start.md with page := 0x1#8, s := false }
      data := [(0x281, 0x40)] }
    (fun t => 
      t.regs.a1 == 0x400000000#36 &&
      t.fl == { t.fl with z := false, m := false, n := false, v := false, c := false, e := true, l := false }) =
      true := by decide +kernel

/-- `movsi r1, a0, #3`, spec/96_test_vectors_arithmetic.md. -/
theorem test_movsi : runs 0x42C3 0x0
    { start with
      regs := { start.regs with r1 := 0xFFFF#16 }
      md := { start.md with s := false } }
    (fun t => 
      t.regs.a0 == 0xFFFFFFFF8#36 &&
      t.fl == { t.fl with z := false, m := true, n := false, v := false, c := true, e := false, l := false }) =
      true := by decide +kernel

/-- `movr (r2), a1`, spec/97_test_vectors_move_control_devices.md. -/
theorem test_movr : runs 0x9DE2 0x0
    { start with
      regs := { start.regs with r2 := 0x200#16, a1 := 0x0#36 }
      data := [(0x400, 0xFF), (0x401, 0xFF)] }
    (fun t => 
      t.regs.a1 == 0x7FFF#36 &&
      t.fl == { t.fl with z := false, m := false, n := false, v := false, c := true, e := false, l := false }) =
      true := by decide +kernel

/-- `push a0h`, spec/95_test_vectors.md. -/
theorem test_push_1 : runs 0x5E5C 0x0
    { start with
      regs := { start.regs with a0 := 0x80000000#36 }
      md := { start.md with sat := false } }
    (fun t => t.regs.sp == 0x7FF#16 && memWord t.data 0x07FF#16 == 0x7FFF#16 &&
      t.fl == { t.fl with l := true }) =
      true := by decide +kernel

/-- `push ##0x1234`, spec/97_test_vectors_move_control_devices.md. -/
theorem test_push_2 : runs 0x5F40 0x1234
    start
    (fun t => t.regs.sp == 0x7FF#16 && memWord t.data 0x07FF#16 == 0x1234#16) =
      true := by decide +kernel

/-- `pop st0`, spec/97_test_vectors_move_control_devices.md. -/
theorem test_pop : runs 0x5E68 0x0
    { start with
      regs := { start.regs with sp := 0x7FF#16, a0 := 0x0#36 }
      data := [(0xFFE, 0x6), (0xFFF, 0x38)] }
    (fun t => 
      st0Image t == 0x3806#16 && t.regs.a0 == 0x300000000#36 && t.regs.sp == 0x800#16) =
      true := by decide +kernel

/-- `swap (a0, b0), (a1, b1)`, spec/97_test_vectors_move_control_devices.md. -/
theorem test_swap : runs 0x4984 0x0
    { start with regs := { start.regs with a0 := 0x1#36, b0 := 0x2#36, a1 := 0x3#36, b1 := 0x0#36 } }
    (fun t => t.regs.a0 == 0x2#36 && t.regs.b0 == 0x1#36 && t.regs.a1 == 0x0#36 && t.regs.b1 == 0x3#36 &&
      t.fl == { t.fl with z := false, m := false, n := false, e := false }) =
      true := by decide +kernel

/-- `banke r1, cfgi`, spec/97_test_vectors_move_control_devices.md. -/
theorem test_banke : runs 0x4B85 0x0
    { start with regs := { start.regs with r1 := 0x1#16, cfgi := 0x301#16, r0 := 0x9#16, r1b := 0x2#16, cfgib := 0x702#16 } }
    (fun t => t.regs.r1 == 0x2#16 && t.regs.cfgi == 0x702#16 && t.regs.r0 == 0x9#16 &&
      t.regs.r1b == 0x1#16 && t.regs.cfgib == 0x301#16) =
      true := by decide +kernel

/-- `movd (r0)+, (r4)+`, spec/97_test_vectors_move_control_devices.md. -/
theorem test_movd : runs 0x5FA8 0x0
    { start with
      regs := { start.regs with r0 := 0x200#16, r4 := 0x1000#16 }
      data := [(0x400, 0xBE), (0x401, 0xBA)] }
    (fun t => 
      memWord t.prog 0x1000#16 == 0xBABE#16 && t.regs.r0 == 0x201#16 && t.regs.r4 == 0x1001#16) =
      true := by decide +kernel

/-- `br 0x0200, gt`, spec/97_test_vectors_move_control_devices.md. -/
theorem test_br : runs 0x4183 0x200
    { start with fl := { start.fl with m := false, z := false } }
    (fun t => t.pc == 0x200#16) =
      true := by decide +kernel

/-- `brr 0x0100, c`, spec/97_test_vectors_move_control_devices.md. -/
theorem test_brr : runs 0x57F8 0x0
    { start with fl := { start.fl with c := false } }
    (fun t => t.pc == 0x101#16) =
      true := by decide +kernel

/-- `call 0x5000, v`, spec/97_test_vectors_move_control_devices.md. -/
theorem test_call : runs 0x41C9 0x5000
    { start with fl := { start.fl with v := false } }
    (fun t => t.pc == 0x102#16 && t.regs.sp == 0x800#16) =
      true := by decide +kernel

/-- `callr 0x0111`, spec/97_test_vectors_move_control_devices.md. -/
theorem test_callr : runs 0x1100 0x0
    start
    (fun t => 
      t.pc == 0x111#16 && t.regs.sp == 0x7FF#16 && memWord t.data 0x07FF#16 == 0x101#16) =
      true := by decide +kernel

/-- `calla a0`, spec/97_test_vectors_move_control_devices.md. -/
theorem test_calla : runs 0xD480 0x0
    { start with
      regs := { start.regs with a0 := 0xF12343000#36 }
      md := { start.md with sat := false } }
    (fun t => 
      t.pc == 0x3000#16 && t.regs.sp == 0x7FF#16 && memWord t.data 0x07FF#16 == 0x101#16) =
      true := by decide +kernel

/-- `ret e`, spec/97_test_vectors_move_control_devices.md. -/
theorem test_ret : runs 0x458A 0x0
    { start with
      regs := { start.regs with sp := 0x7FF#16 }
      fl := { start.fl with e := false }
      data := [(0xFFE, 0x23), (0xFFF, 0x1)] }
    (fun t => t.pc == 0x101#16 && t.regs.sp == 0x7FF#16) =
      true := by decide +kernel

/-- `reti eq`, spec/97_test_vectors_move_control_devices.md. -/
theorem test_reti : runs 0x45C1 0x0
    { start with
      regs := { start.regs with sp := 0x7FF#16 }
      fl := { start.fl with z := false }
      md := { start.md with ie := false }
      data := [(0xFFE, 0x23), (0xFFF, 0x1)] }
    (fun t => t.pc == 0x101#16 && t.regs.sp == 0x7FF#16 && t.md.ie == false) =
      true := by decide +kernel

/-- `cntx s`, spec/97_test_vectors_move_control_devices.md. -/
theorem test_cntx : runs 0xD380 0x0
    { start with
      regs := { start.regs with a1 := 0x5#36, b1 := 0xFFFFFFFFF#36 }
      fl := { start.fl with c := true, v := true }
      md := { start.md with page := 0x10#8 }
      shadow := { start.shadow with pageAlt := 0x20#8 } }
    (fun t => 
      t.regs.a1 == 0xFFFFFFFFF#36 && t.regs.b1 == 0x5#36 && t.md.page == 0x20#8 &&
      t.shadow.pageAlt == 0x10#8 &&
      t.fl == { t.fl with z := false, m := true, n := false, v := true, c := true, e := false }) =
      true := by decide +kernel

/-- `rets #3`, spec/97_test_vectors_move_control_devices.md. -/
theorem test_rets : runs 0x0903 0x0
    { start with
      regs := { start.regs with sp := 0x7FC#16 }
      data := [(0xFF8, 0x23), (0xFF9, 0x1)] }
    (fun t => t.pc == 0x123#16 && t.regs.sp == 0x800#16) =
      true := by decide +kernel

/-- `modr (r0)+`, spec/97_test_vectors_move_control_devices.md. -/
theorem test_modr : runs 0x0088 0x0
    { start with
      regs := { start.regs with r0 := 0x16#16, cfgi := 0x301#16 }
      fl := { start.fl with r := true }
      md := { start.md with mEn := 1#6 } }
    (fun t => t.regs.r0 == 0x10#16 && t.fl == { t.fl with r := false }) =
      true := by decide +kernel

/-- `eint`, spec/97_test_vectors_move_control_devices.md. -/
theorem test_eint : runs 0x4380 0x0
    { start with md := { start.md with ie := false } }
    (fun t => t.md.ie == true && st0Image t == 0x2#16) =
      true := by decide +kernel

/-- `dint`, spec/97_test_vectors_move_control_devices.md. -/
theorem test_dint : runs 0x43C0 0x0
    (writeSt0 0xE#16 start)
    (fun t => t.md.ie == false && st0Image t == 0xC#16) =
      true := by decide +kernel

/-- `load #0x12, page`, spec/97_test_vectors_move_control_devices.md. -/
theorem test_load_1 : runs 0x0412 0x0
    { (writeSt1 0xC00#16 start) with regs := { (writeSt1 0xC00#16 start).regs with a1 := 0x500000000#36 } }
    (fun t => 
      st1Image t == 0x5C12#16 && t.md.page == 0x12#8 && t.regs.a1 == 0x500000000#36) =
      true := by decide +kernel

/-- `load #3, ps`, spec/97_test_vectors_move_control_devices.md. -/
theorem test_load_2 : runs 0x4D83 0x0
    (writeSt1 0x12#16 start)
    (fun t => st1Image t == 0xC12#16 && t.md.ps == 3#2) =
      true := by decide +kernel

/-- `nop` (R430). -/
theorem test_nop : runs 0x0000 0 start (fun t => t.pc == 0x0101#16 && t.regs == start.regs && t.fl == start.fl) = true := by
  decide +kernel

/-- `rep #5` (R420): repc and the repeated address. -/
theorem test_rep : runs 0x0C05 0 start
    (fun t => t.pc == 0x0101#16 && t.regs.repc == 5#16 && t.ctl.repActive && t.ctl.repAddr == 0x0101#16) = true := by
  decide +kernel

/-- `bkrep #3, 0x0110` (R422): lc, BC = 1, LP = 1 in icr. -/
theorem test_bkrep : runs 0x5C03 0x0110 start (fun t => t.pc == 0x0102#16 && t.regs.lc == 3#16 &&
    icrImage t == 0x0030#16 && t.ctl.bkStart == 0x0102#16 && t.ctl.bkEnd == 0x0110#16) = true := by decide +kernel

/-- `break` in the outer level (R427): LP and BC are cleared, lc stays. -/
theorem test_brk : runs 0xD3C0 0 { start with
      regs := { start.regs with lc := 7 }
      ctl := { start.ctl with bc := 1, lp := true, bkStart := 0x00F0, bkEnd := 0x0120 } }
    (fun t => t.pc == 0x0101#16 && t.regs.lc == 7#16 && icrImage t == 0#16) = true := by decide +kernel

/-- `macuu y, (r0), a0` (R298): both factors unsigned, the previous product 0. -/
theorem test_macuu :
    runs 0x8520 0 { start with regs := { start.regs with y := 0xFFFF, r0 := 0x0200 }, data := [(0x400, 0xFF), (0x401, 0xFF)] }
      (fun t => t.regs.p == 0xFFFE0001#32 && t.regs.pUnsigned) = true := by decide +kernel

/-- `retd` (R413): the target is popped, the program counter goes on. -/
theorem test_retd : runs 0xD780 0 { start with regs := { start.regs with sp := 0x0200 }, data := [(0x401, 0x03)] }
    (fun t => t.pc == 0x0101#16 && t.regs.sp == 0x0201#16 && t.ctl.delayTarget == 0x0300#16 && t.ctl.delayCount == 2) =
      true := by decide +kernel

/-- `retid` (R415): the same, and IE is set. -/
theorem test_retid : runs 0xD7C0 0 { start with regs := { start.regs with sp := 0x0200 }, data := [(0x401, 0x03)] }
    (fun t => t.regs.sp == 0x0201#16 && t.ctl.delayTarget == 0x0300#16 && t.md.ie) = true := by decide +kernel

/-- `trap` (R431): the return address on the stack and in dvm, control at 0x0002. -/
theorem test_trap : runs 0x0020 0 start (fun t => t.pc == 0x0002#16 && t.regs.sp == 0x07FF#16 &&
    memWord t.data 0x07FF == 0x0101#16 && t.regs.dvm == 0x0101#16 && t.ctl.inTrap) = true := by decide +kernel

/-- `trap` with DAWE set and DABP at the pushed word (R431, R510): the push is seen before in_trap is set. -/
theorem test_trap_watched : runs 0x0020 0 { start with ocem := { start.ocem with mode0 := 0x0004, dabp := 0x07FF } }
    (fun t => t.ctl.inTrap && t.ocem.status0 == 0x8002#16) = true := by decide +kernel

/-- `mpy (r4), (r0)` with dvm at the Y word, then at the X word, and DVRE set: only the X word is on XDB (R66, R93); with
DARE set and DABP at the Y address (log 49). -/
theorem test_dual_watched :
    let s : State := { start with
      regs := { start.regs with r4 := 0xF800, r0 := 0x0200 }
      data := [(0x400, 0x22), (0x401, 0x11), (0x1F000, 0x44), (0x1F001, 0x33)] }
    let cause := fun (dvm mode dabp : Word) => nextWith (exec (.mpyDual .r4 .keep .r0 .keep)
      { s with regs := { s.regs with dvm := dvm }, ocem := { s.ocem with mode0 := mode, dabp := dabp } })
    cause 0x3344 0x0002 0 (fun t => t.ocem.status0 == 0 && t.regs.y == 0x3344#16 && t.regs.x == 0x1122#16) = true ∧
      cause 0x1122 0x0002 0 (fun t => t.ocem.status0 == 1) = true ∧
      cause 0x3344 0x0008 0xF800 (fun t => t.ocem.status0 == 2) = true := by decide +kernel

/-- Table 14 (R464, R420): the longest row counts, and after a last repetition BI is held too. -/
theorem test_delays :
    interruptDelays (instrInfo (.movLongReg 0 .st2)) 0x0100 { start with ctl := { start.ctl with trapRet := true } } = (1, 1, 0) ∧
      interruptDelays (instrInfo (.movLongReg 0 .st2)) 0x0100 start = (0, 1, 0) ∧
      interruptDelays (instrInfo .nop) 0x0100 { start with ctl := { start.ctl with repActive := true, repAddr := 0x0100 } } =
        (1, 1, 1) := by decide +kernel

/-- An ARM half-word read of mailbox word 0, which belongs to the ARM when it is the sender and the semaphore is low (R522,
R528), and of DPMBCC after a write of it (R526). -/
theorem test_arm_read :
    (armReadHalf 0 { start with dpmb := { start.dpmb with ato := 1 }, data := [(0x1C000, 0x34), (0x1C001, 0x12)] }).armLog =
        [.half 0 0x1234#16] ∧
      (armReadWord 0x220 (armWriteWord 0x220 0x40FF00AA#32 start)).armLog = [.word 0x220 0x40FF00AA#32] := by
  decide +kernel

/-- Sixteen records, three of them read, one jump recorded (R514, R515): the thirteen others stay, the unused stages come
first and the new record last; TBF is not due until three jumps are recorded. -/
theorem test_trace_refill :
    let full : State := { start with ocem := { start.ocem with
      mode0 := 0x1000, trace := (List.range 16).map fun k => ⟨true, BitVec.ofNat 16 k⟩ } }
    let s := (ocemRead 0xF7F0 (ocemRead 0xF7F0 (ocemRead 0xF7F0 full).2).2).2
    let t := traceOne 0x0100 s
    t.ocem.trace = [traceUnused, traceUnused] ++ ((List.range 13).map fun k => ⟨true, BitVec.ofNat 16 (k + 3)⟩) ++
        [⟨true, 0x0100⟩] ∧
      t.ocem.status0 = 0 ∧ (traceTwo 0x0101 0x0102 t).ocem.status0 = 0x2000 := by decide +kernel

/-- What a taken br, a taken calla and one not taken record (R514, principles 1 to 3), by the step. -/
theorem test_trace_jumps :
    let last := fun (s : State) => s.ocem.trace.drop 14
    runs 0x4180 0x0200 start (fun t => last t == [traceUnused, ⟨true, 0x0100⟩]) = true ∧
      runs 0x4181 0x0200 start (fun t => last t == [traceUnused, traceUnused]) = true ∧
      runs 0xD480 0 { start with regs := { start.regs with a0 := 0x0300 } }
        (fun t => last t == [⟨false, 0x0100⟩, ⟨false, 0x0300⟩]) = true := by decide +kernel

/-- ARM Set with ATO high raises OIS and keeps AIS, ARM Clear clears AIS; with ATO low Clear raises OIS (R524, Table 9). -/
theorem test_arm_semaphore :
    let d : Dpmb := ⟨0, 0, 0x02, 0x02, 0xFF, 0xFF, 0⟩
    (armWriteHalf 0x204 1 { start with dpmb := d }).dpmb = ⟨0x02, 0x02, 0x02, 0x02, 0xFF, 0xFF, 0⟩ ∧
      (armWriteWord 0x204 0 { start with dpmb := d }).dpmb = ⟨0, 0, 0, 0x02, 0xFF, 0xFF, 0⟩ ∧
      (armWriteHalf 0x204 0 { start with dpmb := { d with ato := 0 } }).dpmb = ⟨0, 0x02, 0, 0, 0xFF, 0xFF, 0⟩ := by
  decide +kernel

/-- The forward edge of a modulo buffer (R101): MOD = 5, step +1, low bits 5 go to 0. -/
theorem test_modulo : moduloStep 0x0105#16 1 5 = 0x0100#16 ∧ moduloStep 0x0100#16 (-1) 5 = 0x0105#16 := by decide +kernel

/-! ## Witnesses: for each obligation with hypotheses, states and operands that meet them -/

/-- The witness state: rJ in Y-RAM, the other pointers in X-RAM, PAGE at the last page of the first RAM. -/
def wit : State := { start with
  regs := { start.regs with r0 := 0x0010, r1 := 0x07FF, r2 := 0x4000, r3 := 0x7FFF, r4 := 0xF800, r5 := 0xFFFF, rb := 0x0040 }
  md := { start.md with page := 0x07 } }

/-- The memory operand forms can be read in `wit`, at the first and last addresses of the RAMs; so can the two operands
of a dual access, and every condition `always` holds. -/
theorem forms_read :
    (∃ v t, Reads (directAddr 0xFF wit) wit v t) ∧ (∃ v t, Reads (getRN .r1 wit) (postMod .r1 .inc false wit) v t) ∧
      (∃ v t, Reads 0xF800 wit v t) ∧ (∃ v t, Reads (BitVec.ofInt 16 (wit.regs.rb.toInt + (-64#7).toInt)) wit v t) ∧
      (∃ v t, Reads (BitVec.ofNat 16 (wit.regs.rb.toNat + 0xFFC0)) wit v t) :=
  ⟨exists_reads (by decide +kernel), exists_reads (by decide +kernel), exists_reads (by decide +kernel),
    exists_reads (by decide +kernel), exists_reads (by decide +kernel)⟩

theorem dual_reads : ∃ y t x u, readY .r4 .inc wit = .next (y, t) ∧ readX .r3 .dec t = .next (x, u) := by
  obtain ⟨⟨y, t⟩, e⟩ := exists_next (show isNext (readY .r4 .inc wit) = true by decide +kernel)
  have h : readY .r4 .inc wit = .next (0, postMod .r4 .inc false wit) := rfl
  obtain ⟨⟨x, u⟩, e'⟩ := exists_next (show isNext (readX .r3 .dec (postMod .r4 .inc false wit)) = true by decide +kernel)
  exact ⟨0, _, x, u, h, e'⟩

theorem witness_OneRowEach : ∃ x : OpRow, opRows[0]? = some x ∧ 0xA000#16 &&& x.mask = x.pattern := ⟨_, rfl, by decide +kernel⟩

theorem witness_StepRunsInstruction :
    (∀ s ∈ [State.reset.withFetchWord 32 0x12344181, { State.reset with pc := 0x5FFF }],
      s.inputs = [] ∧ biAccepted s = false ∧ intAccepted s = none ∧ biAccepted (ocemFetch s.pc s) = false ∧
        progMapped s.pc = true ∧ s.ocem.mode0 = 0) ∧
      decodesTo 0x4181 0x1234 (.br 0x1234 .eq) = true ∧
      orderRefusal (instrInfo (.br 0x1234 .eq)) 0 State.reset = none ∧ (instrInfo (.br 0x1234 .eq)).words = 2 ∧
      progMapped 1 = true := by decide +kernel

theorem witness_ReservedWordsRefused :
    (let s := State.reset.withFetchWord 16 0x8086;
      s.inputs = [] ∧ biAccepted s = false ∧ intAccepted s = none ∧ s.ocem.mode0 = 0 ∧ progMapped s.pc = true ∧
        decode (memWord s.prog s.pc) 0 = .error .reservedAddressRegister) ∧
      (let s : State := { State.reset with pc := 0x6000 };
      s.inputs = [] ∧ biAccepted s = false ∧ intAccepted s = none ∧ s.ocem.mode0 = 0 ∧ progMapped s.pc = false) := by
  decide +kernel

theorem witness_StepKeepsInv : ({ State.reset with pc := 0x0010, data := [(0x20, 5)] } : State).Inv ∧
    ∃ t, step { State.reset with pc := 0x0010, data := [(0x20, 5)] } = .next t := by
  refine ⟨⟨rfl, by simp [State.reset], rfl, ?_, by decide, rfl, rfl, by decide, nofun, rfl, rfl, rfl, by decide,
    by decide, by decide⟩, exists_next (by decide +kernel)⟩
  intro c hc
  rw [List.mem_singleton.1 hc]
  exact ⟨by decide, .inl (by decide +kernel)⟩

theorem witness_RamWriteRead : Memory.wf wit.data = true ∧ wit.ocem.mode0 = 0 ∧
    [0x0000#16, 0x07FF#16, 0x4000#16, 0x7FFF#16, 0xF800#16, 0xFFFF#16].all (dataRegion · == .ram) = true := by
  decide +kernel

/-- Each kind of region, a mailbox the Oak owns and one it does not, and an unmapped address on each side of a device. -/
theorem witness_DataReads : wit.ocem.mode0 = 0 ∧ dataRegion 0x07FF = .ram ∧
    [0xEBFF#16, 0xEC01#16, 0xEC0B#16, 0xF7EF#16, 0xF7FC#16].all (fun a => dataRegion a != .ram) = true ∧
    [0xE000#16, 0xE7FF#16].all (fun a => dataRegion a == .mailbox && oakOwns wit.dpmb (a.extractLsb' 0 8) &&
      !oakOwns { wit.dpmb with ato := 0xFF } (a.extractLsb' 0 8)) = true ∧
    [0xE800#16, 0xEBFF#16].all (dataRegion · == .semaphore) = true ∧ dataRegion 0xF7FC = .unmapped := by decide +kernel

/-- MODE0 at 0 and, in the routine, at another value; a narrow and a wide CODRX, its second half, an empty one. -/
theorem witness_DeviceReads :
    let s : State := { wit with codec := { wit.codec with rxFifo := [0x56781234] } }
    let trap : State := { s with ctl := { s.ctl with inTrap := true }, ocem := { s.ocem with mode0 := 0x40FF } }
    s.ocem.mode0 = 0 ∧ trap.ctl.inTrap = true ∧ trap.ocem.mode0 ≠ 0 ∧ s.codec.sck.getLsbD 11 = false ∧
      ({ s with codec := { s.codec with sck := 0x481F } } : State).codec.sck.getLsbD 11 = true ∧
      s.codec.rxHalf = none ∧ s.codec.rxFifo = [0x56781234] ∧ wit.codec.rxFifo = [] ∧
      ({ s with codec := { s.codec with rxHalf := some 0x1234 } } : State).codec.rxHalf = some 0x1234 ∧
      s.ocem.trace = ⟨true, 0xFFFF⟩ :: List.replicate 15 ⟨true, 0xFFFF⟩ := by decide +kernel

/-- Each kind of region; a transmit FIFO with room and a full one; the three ways a word for CODTX goes on. -/
theorem witness_DataWrites : Memory.wf wit.data = true ∧ wit.ocem.mode0 = 0 ∧ dataRegion 0x0800 = .unmapped ∧
    dataRegion 0xF800 = .ram ∧ [0xE000#16, 0xE7FF#16].all (dataRegion · == .mailbox) = true ∧
    [0xE800#16, 0xEBFF#16].all (dataRegion · == .semaphore) = true ∧
    oakOwns wit.dpmb 0xFF = true ∧ oakOwns { wit.dpmb with ato := 0xFF } 0xFF = false ∧
    wit.codec.txFifo.length < Config.codecFifoDepth ∧
    Config.codecFifoDepth ≤ (List.replicate Config.codecFifoDepth (0 : BitVec 32)).length ∧
    wit.codec.sck.getLsbD 11 = false ∧
    (let s : State := { wit with codec := { wit.codec with sck := 0x481F } };
      s.codec.sck.getLsbD 11 = true ∧ s.codec.txHalf = none ∧
        ({ s with codec := { s.codec with txHalf := some 5 } } : State).codec.txHalf = some 5) := by
  refine ⟨rfl, rfl, by decide +kernel, by decide +kernel, by decide +kernel, by decide +kernel, rfl, rfl, by decide,
    by simp, by decide +kernel, by decide +kernel, rfl, rfl⟩

/-- MOD = 5: M = 6, k = 3, the edges and the middle of a buffer, with steps 1 and -1; MOD = 7: M = 8 = 2^3; MOD = 4
with step 2: M = 6, k = 3, at multiples of 2; MOD = 0; no modulo mode. -/
theorem witness_PostModification :
    let on : State := { wit with md := { wit.md with mEn := 0x3F }, regs := { wit.regs with cfgi := 0x0281 } }
    moduloOn .r0 wit = false ∧ moduloOn .r0 on = true ∧ on.regs.cfgi.toNat / 128 = 5 ∧ PostMod.inc ≠ .keep ∧
      (∀ p, 2 ^ p ≠ 6) ∧ 5 < 2 ^ 3 ∧ (∀ p, 5 < 2 ^ p → 3 ≤ p) ∧ 6 % 1 = 0 ∧
      (∀ old ∈ [0x0100, 0x0102, 0x0105], old % 2 ^ 3 % 1 = 0 ∧ old % 2 ^ 3 ≤ 5) ∧ 2 ^ 3 = 7 + (1 : Int).natAbs ∧
      (∀ p, 4 < 2 ^ p → 3 ≤ p) ∧ 6 % 2 = 0 ∧ (∀ old ∈ [0x0100, 0x0102, 0x0104], old % 2 ^ 3 % 2 = 0 ∧ old % 2 ^ 3 ≤ 4) ∧
      (on.regs.cfgi.extractLsb' 0 7).toInt = 1 ∧ moduloOn .r4 on = true ∧ on.regs.cfgj.toNat / 128 = 0 := by
  have grows : ∀ p : Nat, 3 ≤ p → 8 ≤ 2 ^ p := fun p h =>
    le_trans (by norm_num) (Nat.pow_le_pow_right (by norm_num : 1 ≤ 2) h)
  have no6 : ∀ p, 2 ^ p ≠ 6 := by
    intro p e
    by_cases h : 3 ≤ p
    · have := grows p h; omega
    · interval_cases p <;> simp at e
  have least : ∀ m, 4 ≤ m → ∀ p, m < 2 ^ p → 3 ≤ p := by
    intro m hm p h
    by_contra h'
    interval_cases p <;> omega
  exact ⟨by decide, by decide, by decide, by decide, no6, by decide, least 5 (by decide), by decide, by decide, by decide,
    least 4 (by decide), by decide, by decide, by decide, by decide, by decide⟩

theorem witness_RegisterOperands : extOfReg .r0 = none ∧ halfOfReg .b1l = some (.b1, .lo) ∧
    halfOfReg .a0h = some (.a0, .hi) ∧ isWide .ext3 = false ∧ isWide .sv = false := by decide

/-- The first values outside and inside 32 bits on either side. -/
theorem witness_SaturationOnMoves : wit.md.sat = false ∧ 2 ^ 31 ≤ (0x080000000#36).toInt ∧
    (0xF7FFFFFFF#36).toInt < -2 ^ 31 ∧ (0x07FFFFFFF#36).toInt < 2 ^ 31 ∧ -2 ^ 31 ≤ (0xF80000000#36).toInt := by decide

theorem witness_ShiftedProduct : ∀ k : BitVec 2, ({ wit with md := { wit.md with ps := k } } : State).md.ps = k :=
  fun _ => rfl

theorem witness_Conditions : condHolds .always wit = true ∧ ∀ cc ∈ [Cond.eq, .lt, .c, .v, .e, .l, .iu0, .iu1, .le],
    condHolds cc wit = false := by decide

theorem witness_AddForms : (Instr.addReg .a0 .a1).wf = true ∧ (Instr.addhReg .a0 .a1h).wf = true ∧
    (Instr.addlReg .a1 .r0).wf = true ∧ ∃ v t, Reads (directAddr 0xFF wit) wit v t := ⟨rfl, rfl, rfl, forms_read.1⟩

theorem witness_SubForms : (Instr.subReg .a0 .p).wf = true ∧ (Instr.subhReg .a0 .a1h).wf = true ∧
    (Instr.sublReg .a1 .r0).wf = true ∧ ∃ v t, Reads (directAddr 0xFF wit) wit v t := ⟨rfl, rfl, rfl, forms_read.1⟩

theorem witness_CompareForms : (Instr.cmpReg .a0 .a1).wf = true ∧ (Instr.cmpuReg .a0 .lc).wf = true ∧
    ∃ v t, Reads (directAddr 0xFF wit) wit v t := ⟨rfl, rfl, forms_read.1⟩

theorem witness_LogicForms : (Instr.orReg .a0 .a1).wf = true ∧ (Instr.xorReg .a0 .y).wf = true ∧
    (Instr.andReg .a0 .r0).wf = true ∧ isWide .r0 = false ∧ (Instr.andReg .a0 .p).wf = true ∧ isWide .p = true ∧
    ∃ v t, Reads (getRN .r1 wit) (postMod .r1 .inc false wit) v t := ⟨rfl, rfl, rfl, rfl, rfl, rfl, forms_read.2.1⟩

theorem witness_ExcludedOperandsRefused : (Instr.repReg .p).wf = false ∧ accAOfReg .a0h = some (accOfA .a0) := by decide

theorem witness_ShiftsAndRotates : condHolds .always wit = true ∧ condHolds .ge wit = true := by decide

/-- Shift amounts at the ends of -36 to 36, and beyond. -/
theorem witness_VariableShifts : condHolds .always wit = true ∧ (0xFFDC#16).toInt = -36 ∧ (0xFFDB#16).toInt = -37 ∧
    (0x0024#16).toInt = 36 ∧ (Instr.movsReg .a0h .a0).wf = true ∧ (∃ v t, Reads (directAddr 0xFF wit) wit v t) ∧
    ∃ v t, Reads (getRN .r1 wit) (postMod .r1 .inc false wit) v t :=
  ⟨rfl, by decide, by decide, by decide, rfl, forms_read.1, forms_read.2.1⟩

theorem witness_ClearComplementCopy : condHolds .nr wit = true := by decide

theorem witness_NegateRoundStep : condHolds .neq wit = true ∧ (Instr.movrReg .p .a0).wf = true ∧
    ∃ v t, Reads (getRN .r1 wit) (postMod .r1 .inc false wit) v t := ⟨rfl, rfl, forms_read.2.1⟩

theorem witness_Exponents : (Instr.expReg .a0h (some .a1)).wf = true ∧ isWide .a0h = false ∧
    ∃ v t, Reads (getRN .r1 wit) (postMod .r1 .inc false wit) v t := ⟨rfl, rfl, forms_read.2.1⟩

theorem witness_NormalizeDivideSteps : wit.fl.n = false ∧ ({ wit with fl := { wit.fl with n := true } } : State).fl.n = true ∧
    ∃ v t, Reads (directAddr 0xFF wit) wit v t := ⟨rfl, rfl, forms_read.1⟩

theorem witness_ExtremaLimits : ∃ v t, Reads wit.regs.r0 wit v t := exists_reads (by decide +kernel)

theorem witness_MultiplyForms : (Instr.mpyReg .a0h).wf = true ∧ (Instr.sqrReg .y).wf = true ∧
    ∃ y t x u, readY .r4 .inc wit = .next (y, t) ∧ readX .r3 .dec t = .next (x, u) := ⟨rfl, rfl, dual_reads⟩

theorem witness_MultiplyAccumulateForms : (Instr.macReg .a0 .a0l).wf = true ∧ (Instr.macuuReg .a1 .r5).wf = true ∧
    ∃ y t x u, readY .r4 .inc wit = .next (y, t) ∧ readX .r3 .dec t = .next (x, u) := ⟨rfl, rfl, dual_reads⟩

theorem witness_AlignedSubtractSquareForms : (Instr.maaReg .a0 .a0l).wf = true ∧ (Instr.msuReg .a1 .r5).wf = true ∧
    (Instr.sqraReg .a1 .sv).wf = true ∧
    ∃ y t x u, readY .r4 .inc wit = .next (y, t) ∧ readX .r3 .dec t = .next (x, u) := ⟨rfl, rfl, rfl, dual_reads⟩

theorem witness_DualOperands : 0xF800 ≤ (getRN .r4 wit).toNat ∧ (getRN .r3 wit).toNat < 0xF800 ∧
    (getRN .r4 { wit with regs := { wit.regs with r4 := 0xF7FF } }).toNat < 0xF800 ∧
    0xF800 ≤ (getRN .r3 { wit with regs := { wit.regs with r3 := 0xF800 } }).toNat ∧
    (let o : Ocem := { wit.ocem with mode0 := 0x000A, dabp := 0xF800 };
      wit.ctl.inTrap = false ∧ o.mode0.getLsbD 4 = false ∧ o.mode0.getLsbD 3 = true ∧
        (getRN .r4 wit ^^^ o.dabp) &&& ~~~o.dam = 0 ∧ o.biData = 0 ∧ ({ o with biData := 1 } : Ocem).biData ≠ 0) ∧
    wit.ocem.mode0.getLsbD 3 = false := by decide

theorem witness_BitFieldMemory : ∃ v t w, Reads (directAddr 0xFF wit) wit v t ∧
    dataWrite (directAddr 0xFF wit) (v ||| 0x8001) t = .next w := by
  have h : Reads (directAddr 0xFF wit) wit 0 wit := rfl
  obtain ⟨w, e⟩ := exists_next (show isNext (dataWrite (directAddr 0xFF wit) (0 ||| 0x8001) wit) = true by decide +kernel)
  exact ⟨0, wit, w, h, e⟩

theorem witness_BitFieldRegister : (Instr.setReg 1 .st0).wf = true ∧ (Instr.addvReg 1 .r0).wf = true ∧
    halfOfReg .r0 = none ∧ (Instr.subvReg 1 .b1h).wf = true ∧ halfOfReg .b1h = some (.b1, .hi) := by decide

theorem witness_BitTests : (Instr.tst0AccReg .a0 .a0h).wf = true ∧ (Instr.tst1LongReg 1 .st0).wf = true ∧
    (Instr.tstbReg .lc 15).wf = true ∧ (Instr.cmpvReg 0 .a0l).wf = true ∧ ∃ v t, Reads (directAddr 0xFF wit) wit v t :=
  ⟨rfl, rfl, rfl, rfl, forms_read.1⟩

theorem witness_AccumulatorLoads : (Instr.movRegB .a0h .b0).wf = true ∧ (∃ v t, Reads (directAddr 0xFF wit) wit v t) ∧
    (∃ v t, Reads 0xF800 wit v t) ∧ ∃ v t, Reads (BitVec.ofNat 16 (wit.regs.rb.toNat + 0xFFC0)) wit v t :=
  ⟨rfl, forms_read.1, forms_read.2.2.1, forms_read.2.2.2.2⟩

theorem witness_RegisterMoves : (Instr.movRegReg .st1 .a0h).wf = true ∧ (Instr.movIndReg .r1 .inc .a0).wf = true ∧
    (∃ v t, Reads (0x07FF#16) { wit with regs := { wit.regs with sp := 0x07FF } } v t) ∧
    ∃ v t, Reads (getRN .r1 wit) (postMod .r1 .inc false wit) v t :=
  ⟨rfl, rfl, exists_reads (by decide +kernel), forms_read.2.1⟩

theorem witness_SingleRegisterMoves : (Instr.movRegMixp .a0h).wf = true ∧ ∃ v t, Reads (directAddr 0xFF wit) wit v t :=
  ⟨rfl, forms_read.1⟩

theorem witness_Stores : (Instr.movRegInd .a0h .r1 .inc).wf = true ∧
    (∃ w, dataWrite (getRN .r1 wit) 5 (postMod .r1 .inc false wit) = .next w) ∧
    (∃ w, dataWrite (directAddr 0xFF wit) (readReg .r0 wit).1 wit = .next w) ∧
    (∃ w, dataWrite (0xFFFF#16) (satRead .a0 .lo wit).1 (satRead .a0 .lo wit).2 = .next w) ∧
    0x0000#16 = BitVec.ofInt 16 (wit.regs.rb.toInt + (-64#7).toInt) ∧
    0x0000#16 = BitVec.ofNat 16 (wit.regs.rb.toNat + (0xFFC0#16).toNat) :=
  ⟨rfl, exists_next (by decide +kernel), exists_next (by decide +kernel), exists_next (by decide +kernel), rfl, rfl⟩

/-- The write stands 0 to 2, and 3, addresses before the end of the body. -/
theorem witness_IcrWrites : (Instr.movRegIcr .r0).wf = true ∧ (0x10#16).getLsbD 4 = true ∧ (0x0F#16).getLsbD 4 = false ∧
    ({ wit with ctl := { wit.ctl with bc := 1, lp := true } } : State).ctl.lp = true ∧
    ((0x0100#16).toNat + 65536 - (0x0101#16 - 1).toNat) % 65536 ≤ 2 ∧
    ((0x0102#16).toNat + 65536 - (0x0101#16 - 1).toNat) % 65536 ≤ 2 ∧
    ¬((0x0103#16).toNat + 65536 - (0x0101#16 - 1).toNat) % 65536 ≤ 2 := by decide

theorem witness_StackMoves : (Instr.pushReg .a0h).wf = true ∧ (Instr.pop .a0).wf = true ∧
    (∃ w, dataWrite (wit.regs.sp - 1) 5 { wit with regs := { wit.regs with sp := wit.regs.sp - 1 } } = .next w) ∧
    (∃ v t, Reads (0x07FF#16) { wit with regs := { wit.regs with sp := 0x07FF } } v t) :=
  ⟨rfl, rfl, exists_next (by decide +kernel), exists_reads (by decide +kernel)⟩

/-- Program addresses on either side of 0x6000, data addresses with and without something behind them. -/
theorem witness_ProgramMemoryMoves : (0x5FFF#16).toNat < 0x6000 ∧ 0x6000 ≤ (0x6000#16).toNat ∧
    (Instr.movpIndInd .r0 .inc .r1 .dec).wf = true ∧ (getRN .r0 wit).toNat < 0x6000 ∧ 0x6000 ≤ (getRN .r3 wit).toNat ∧
    dataRegion (getRN (rnOfI .r1) wit) = .ram ∧
    (let s : State := { wit with regs := { wit.regs with r1 := 0x0800 } };
      dataRegion (getRN (rnOfI .r1) s) = .unmapped ∧ (getRN .r0 s).toNat < 0x6000) ∧ Memory.wf wit.prog = true ∧
    (let s : State := { wit with regs := { wit.regs with r4 := 0x5FFF } };
      getRN (rnOfJ .r4) s ≠ s.pc - 1 ∧ getRN (rnOfJ .r4) s ≠ s.pc ∧ (getRN (rnOfJ .r4) s).toNat < 0x6000 ∧
        dataRegion (getRN (rnOfI .r0) s) = .ram) ∧
    (let s : State := { wit with regs := { wit.regs with r4 := 0x6000 } };
      getRN (rnOfJ .r4) s ≠ s.pc - 1 ∧ getRN (rnOfJ .r4) s ≠ s.pc ∧ 0x6000 ≤ (getRN (rnOfJ .r4) s).toNat) ∧
    (let s : State := { wit with regs := { wit.regs with r4 := 0x00FF, r5 := 0x0100 } };
      getRN (rnOfJ .r4) s = s.pc - 1 ∧ getRN (rnOfJ .r5) s = s.pc) := by decide +kernel

theorem witness_BranchesAndEnables : condHolds .always wit = true ∧ condHolds .nn wit = true := by decide

theorem witness_Calls : condHolds .niu0 wit = true ∧
    ∃ w, dataWrite (wit.regs.sp - 1) wit.pc { wit with regs := { wit.regs with sp := wit.regs.sp - 1 } } = .next w :=
  ⟨rfl, exists_next (by decide +kernel)⟩

/-- A state whose stack holds 0x0300, with and without a repeat put aside at that address. -/
def witRet : State := { wit with regs := { wit.regs with sp := 0x07FF }, data := [(0xFFF, 3)] }

theorem witness_Returns : Reads witRet.regs.sp witRet 0x0300 witRet ∧ condHolds .always witRet = true ∧
    witRet.ctl.repSuspended = false ∧
    (let s : State := { witRet with ctl := { witRet.ctl with repSuspended := true, repSavedAddr := 0x0300 } };
      s.ctl.repSuspended = true ∧ 0x0300#16 = s.ctl.repSavedAddr ∧ Reads s.regs.sp s 0x0300 s) := ⟨rfl, rfl, rfl, rfl, rfl, rfl⟩

/-- Outside the TRAP/BI routine and in it, with and without a repeat put aside at the address returned to. -/
theorem witness_ReturnFromInterrupt : Reads witRet.regs.sp witRet 0x0300 witRet ∧ condHolds .always witRet = true ∧
    witRet.ctl.repSuspended = false ∧ witRet.ctl.inTrap = false ∧
    (let s : State := { witRet with ctl := { witRet.ctl with repSuspended := true, repSavedAddr := 0x0300, inTrap := true } };
      s.ctl.repSuspended = true ∧ 0x0300#16 = s.ctl.repSavedAddr ∧ s.ctl.inTrap = true ∧ Reads s.regs.sp s 0x0300 s) :=
  ⟨rfl, rfl, rfl, rfl, rfl, rfl, rfl, rfl⟩

/-- The cycles of the delay used up in part, in whole, with a repeat put aside at the target, elsewhere, and none; nop uses
one. -/
theorem witness_DelayedReturns : Reads witRet.regs.sp witRet 0x0300 witRet ∧
    (let b : State := { witRet with ctl := { witRet.ctl with delayCount := 2, delayTarget := 0x0300 } };
      let u : State := { b with ctl := { b.ctl with repSuspended := true, repSavedAddr := 0x0300 } };
      b.ctl.delayCount ≠ 0 ∧ 1 < b.ctl.delayCount ∧ b.ctl.delayCount ≤ 2 ∧ b.ctl.repSuspended = false ∧
        u.ctl.repSuspended = true ∧ u.ctl.delayTarget = u.ctl.repSavedAddr ∧
        ({ u with ctl := { u.ctl with repSavedAddr := 0x0301 } } : State).ctl.delayTarget ≠ 0x0301 ∧
        b.ctl.repActive = false ∧ b.ctl.lp = false ∧ cyclesOf (instrInfo .nop) b < b.ctl.delayCount ∧
        ({ b with ctl := { b.ctl with delayCount := 1 } } : State).ctl.delayCount ≤ cyclesOf (instrInfo .nop) b) :=
  ⟨rfl, by decide +kernel⟩

theorem witness_Traps : ({ wit with ctl := { wit.ctl with inTrap := true } } : State).ctl.inTrap = true ∧
    wit.ctl.inTrap = false ∧ wit.ctl.repActive = false ∧ dataRegion (wit.regs.sp - 1) ≠ .ocem ∧
    ∃ w, dataWrite (wit.regs.sp - 1) wit.pc { wit with
      regs := { wit.regs with sp := wit.regs.sp - 1 }
      ocem := { wit.ocem with status0 := wit.ocem.status0 ||| 0x8000#16 } } = .next w :=
  ⟨rfl, rfl, rfl, by decide, exists_next (by decide +kernel)⟩

theorem witness_Repeats : (Instr.repReg .a0h).wf = true ∧ wit.regs.repc = 0 ∧
    ({ wit with regs := { wit.regs with repc := 1 } } : State).regs.repc ≠ 0 ∧
    (let b : State := { wit with ctl := { wit.ctl with repActive := true, repAddr := 0x0101 } };
      b.ctl.repActive = true ∧ 0x0101#16 = b.ctl.repAddr) := by decide +kernel

/-- The shortest body and the fourth level; the same last address, a body of one word and a fifth level. -/
theorem witness_BlockRepeats : (Instr.bkrepReg .r0 0x0101).wf = true ∧
    (let s : State := { wit with ctl := { wit.ctl with bc := 3, lp := true, bkEnd := 0x0110, bkSaved := [⟨1, 2, 3⟩, ⟨1, 4, 3⟩] } };
      s.ctl.bc.toNat < 4 ∧ s.pc.toNat < (0x0101#16).toNat ∧ 0x0101#16 ≠ s.ctl.bkEnd ∧
        (∀ f ∈ s.ctl.bkSaved, 0x0101#16 ≠ f.last) ∧ s.ctl.bc ≠ 0 ∧ 0x0110#16 = s.ctl.bkEnd) ∧
    ¬wit.pc.toNat < (0x0100#16).toNat ∧ ¬(4#3).toNat < 4 := by decide +kernel

/-- The outer level and an inner one, with no clear waiting, with one that waits for the level and one for another. -/
theorem witness_BlockEnds : wit.ctl.bc = 0 ∧
    (let s : State := { wit with ctl := { wit.ctl with bc := 1, lp := true, bkEnd := 0x00FF } };
      s.ctl.bc = 1 ∧ s.ctl.lp = true ∧ s.ctl.bkEnd = (0x0100#16) - 1 ∧ s.pc = 0x0100 ∧ s.ctl.lpClear ≠ some s.ctl.bc ∧
        s.ocem.mode0 = 0 ∧ s.regs.lc = 0 ∧ ({ s with regs := { s.regs with lc := 1 } } : State).regs.lc ≠ 0) ∧
    (let s : State := { wit with ctl := { wit.ctl with
      bc := 2, lp := true, bkEnd := 0x00FF, bkSaved := [⟨1, 2, 3⟩], lpClear := some 1 } };
      s.ctl.lpClear ≠ some s.ctl.bc ∧ 2 ≤ s.ctl.bc.toNat ∧ s.ctl.bkSaved = ⟨1, 2, 3⟩ :: []) ∧
    (let s : State := { wit with ctl := { wit.ctl with
      bc := 2, lp := true, bkEnd := 0x00FF, bkSaved := [⟨1, 2, 3⟩], lpClear := some 2 } };
      s.ctl.lpClear = some s.ctl.bc ∧ s.ctl.bc ≠ 0 ∧ s.ctl.lp = true ∧ s.ctl.bkEnd = (0x0100#16) - 1 ∧
        s.pc = 0x0100 ∧ s.regs.lc = 0) := by decide +kernel

/-- With a repeat running and without, with context and without; a state in which BI is taken. -/
theorem witness_InterruptEntry : (Event.int0, 0x0006#16) ∈ [(Event.int0, 0x0006#16), (.int1, 0x000E#16), (.int2, 0x0016#16)] ∧
    wit.ctl.repActive = false ∧ contextOn .int0 wit = false ∧
    contextOn .int0 { wit with tm := { wit.tm with icPrev := 1 } } = true ∧ Memory.wf wit.data = true ∧
    dataRegion (wit.regs.sp - 1) = .ram ∧ wit.ocem.mode0 = 0 ∧
    (∃ w, dataWrite (wit.regs.sp - 1) wit.pc { wit with
      regs := { wit.regs with sp := wit.regs.sp - 1 }, ctl := wit.ctl } = .next w) ∧
    (∃ w, dataWrite (wit.regs.sp - 1) wit.pc { wit with
      regs := { wit.regs with sp := wit.regs.sp - 1 }
      ctl := { wit.ctl with repSuspended := true, repSaved := 3, repSavedAddr := 0x0100 } } = .next w) ∧
    ∃ u, takeBi { wit with ocem := { wit.ocem with biReq := true } } = .next u :=
  ⟨by decide, rfl, rfl, rfl, rfl, by decide +kernel, rfl, exists_next (by decide +kernel), exists_next (by decide +kernel),
    exists_next (by decide +kernel)⟩

/-- The emulation module with a full trace buffer, without and with INTE. -/
theorem witness_InterruptEntry_taken :
    (let full : State := { wit with ocem := { wit.ocem with trace := List.replicate 16 ⟨false, 5⟩ } };
      nextWith (takeException .int0 full) fun t => t.ocem.mode0 == 0 && t.ocem.trace.length == 16 &&
        !t.ocem.trace.contains traceUnused) = true ∧
    nextWith (takeException .int1 { wit with ocem := { wit.ocem with mode0 := 0x0800 } })
      (fun t => t.ocem.mode0.getLsbD 11 && !t.ctl.inTrap) = true := by decide +kernel

/-- Every breakpoint is enabled, and the first program breakpoint is at the program counter with count 1. -/
def witOcem : State := { wit with ocem := { wit.ocem with mode0 := 0xFFFF, pabp1 := 0x0100, pabc1 := 1, pabc2 := 2 } }

/-- A state in which INT0 is taken, and one in which INT1 is. -/
def witInt : State := { wit with
  md := { wit.md with ie := true, im0 := true, im1 := true }
  dpmb := { wit.dpmb with ois := 0x80 }
  codec := { wit.codec with cnt := 0x3F80, sts := 0x7F }
  tm := { wit.tm with fetches := 3 } }

/-- Each way through an acceptance: INT0, INT1, BI, BI on the fetch, none of them; and an instruction that asks for a delay. -/
theorem witness_InterruptAcceptance : intAccepted witInt = some .int0 ∧ witInt.ctl.inTrap = false ∧
    witInt.ctl.delayCount = 0 ∧ witInt.ctl.repActive = false ∧ witInt.md.ie = true ∧ 3 ≤ witInt.tm.fetches ∧
    witInt.tm.delay01 = 0 ∧ witInt.dpmb.ois.toNat ≠ 0 ∧ witInt.md.im0 = true ∧ biAccepted witInt = false ∧
    witInt.inputs = [] ∧
    intAccepted { witInt with md := { witInt.md with im0 := false } } = some .int1 ∧ wit.md.ie = false ∧
    wit.tm.fetches < 3 ∧ ({ wit with ctl := { wit.ctl with inTrap := true } } : State).ctl.inTrap = true ∧
    ({ wit with ctl := { wit.ctl with delayCount := 1 } } : State).ctl.delayCount ≠ 0 ∧
    biAccepted { wit with ocem := { wit.ocem with biReq := true } } = true ∧ wit.inputs = [] ∧ biAccepted wit = false ∧
    intAccepted wit = none ∧ biAccepted (ocemFetch 0x0100 witOcem) = true ∧ intAccepted witOcem = none ∧
    biAccepted witOcem = false ∧
    (let b : State := { wit with ctl := { wit.ctl with repActive := true, repAddr := 0x0100 } };
      b.ctl.repActive = true ∧ 0x0100#16 = b.ctl.repAddr ∧ b.regs.repc = 0) ∧
    ({ wit with ctl := { wit.ctl with trapRet := true } } : State).ctl.trapRet = true := by decide +kernel

theorem witness_InterruptAcceptance_st0 : writesReg (.pop .st0) .st0 := rfl

/-- Each row of Table 14 has an instruction and a state to which it applies. -/
theorem witness_InterruptAcceptance_rows : ∀ k < 12, ∃ i a b r, (delayRows i a b)[k]? = some r ∧ r.1 := by
  let b : State := { wit with ctl := { wit.ctl with repActive := true, repAddr := 0x0100, repResumed := true, trapRet := true } }
  intro k hk
  interval_cases k
  · exact ⟨.br 0 .eq, 0, wit, _, rfl, by decide +kernel⟩
  · exact ⟨.movpAccReg .a0 .sp, 0, wit, _, rfl, ⟨rfl, nofun⟩, nofun⟩
  · exact ⟨.nop, 0x0100, b, _, rfl, ⟨rfl, rfl⟩, rfl⟩
  · exact ⟨.nop, 0x0100, b, _, rfl, ⟨rfl, rfl⟩, rfl⟩
  · exact ⟨.nop, 0, b, _, rfl, rfl⟩
  · exact ⟨.pop .st0, 0, wit, _, rfl, rfl, nofun⟩
  · exact ⟨.movLongReg 5 .st0, 0, wit, _, rfl, 5, rfl⟩
  · exact ⟨.setReg 1 .st2, 0, wit, _, rfl, rfl, nofun⟩
  · exact ⟨.movLongReg 5 .st2, 0, wit, _, rfl, 5, rfl⟩
  · exact ⟨.retid, 0, wit, _, rfl, trivial⟩
  · exact ⟨.movRegReg .r0 .pc, 0, wit, _, rfl, ⟨rfl, nofun⟩, nofun, id⟩
  · exact ⟨.movLongReg 5 .pc, 0, wit, _, rfl, 5, rfl⟩

/-- What requests BI: the running latency, the single step, a jump, the end of a delayed return, the end of a pass, a program
breakpoint at counts 1, 2 and 0 and at another address, a data access, an illegal one, and a port. -/
theorem witness_InterruptAcceptance_bi :
    (let b : State := { witOcem with
        ctl := { wit.ctl with trapRet := true, stepArmed := true, delayCount := 2, delayFrom := some 0x00FF }
        ocem := { witOcem.ocem with biData := 1 } };
      b.ocem.biData = 1 ∧ ({ b with ocem := { b.ocem with biData := 2 } } : State).ocem.biData = 2 ∧ b.ctl.trapRet = true ∧
        b.ctl.stepArmed = true ∧ b.ctl.inTrap = false ∧ b.ocem.mode0.getLsbD 10 = true ∧ b.ctl.delayCount ≠ 0 ∧
        b.ctl.delayCount ≤ cyclesOf (instrInfo (.br 0 .eq)) b ∧ b.ctl.delayFrom ≠ none) ∧
    condHolds .always witOcem = true ∧
    (let t : State := { witOcem with
        regs := { wit.regs with lc := 1 }
        ctl := { wit.ctl with lp := true, bc := 1, bkEnd := 0x00FF } };
      t.ctl.inTrap = false ∧ t.ocem.mode0.getLsbD 13 = true ∧ t.ctl.repActive = false ∧ t.ctl.lp = true ∧ t.regs.lc ≠ 0 ∧
        t.pc = 0x00FF#16 + BitVec.ofNat 16 (instrInfo .nop).words ∧ t.ctl.bkEnd = t.pc - 1) ∧
    (witOcem.ocem.mode0.getLsbD 7 = true ∧ witOcem.ctl.inTrap = false ∧ 0x0100#16 = witOcem.ocem.pabp1 ∧
      witOcem.ocem.pabc1.toNat ≤ 1 ∧ ¬witOcem.ocem.pabc2.toNat ≤ 1 ∧ witOcem.ocem.pabc3.toNat = 0 ∧
      0x0100#16 ≠ witOcem.ocem.pabp3) ∧
    dataRegion 0x07FF = .ram ∧ (0x0000#16 ^^^ witOcem.ocem.dabp) &&& ~~~witOcem.ocem.dam = 0 ∧ 0#16 = witOcem.regs.dvm ∧
    witOcem.ocem.biData = 0 ∧ witOcem.ocem.mode0.getLsbD 4 = true ∧ wit.ocem.mode0.getLsbD 4 = false ∧
    witOcem.ocem.mode0.getLsbD 14 = true ∧ dataRegion 0xE000 = .mailbox ∧ dataRegion 0xEBFF = .semaphore ∧
    dataRegion 0xF7F0 = .ocem ∧ dataRegion 0xF7FF = .ocem ∧ extOfReg .ext0 = some 0 ∧ extOfReg .ext3 = some 3 ∧
    witOcem.ocem.mode0.getLsbD 6 = true ∧ witOcem.ocem.mode0.getLsbD 5 = true := by decide +kernel

theorem witness_InterruptAcceptance_jump : transfers (.br 0x0200 .always) witOcem ∧ writesReg (.movRegReg .r0 .pc) .pc :=
  ⟨rfl, rfl⟩

/-- The trace buffer with all stages unused and full, a jump recorded in one stage and in two, a delayed return that
happens, neither, a jump inside the TRAP/BI routine; a buffer that becomes full with TBFE set; an interrupt entry. -/
theorem witness_InterruptAcceptance_trace :
    (let b : State := { wit with ctl := { wit.ctl with delayCount := 1, delayFrom := some 0x00FF } };
      wit.ocem.trace.length = 16 ∧ (List.replicate 16 (⟨false, 5⟩ : TraceEntry)).length = 16 ∧ wit.ctl.inTrap = false ∧
        wit.ctl.delayCount = 0 ∧ b.ctl.delayCount ≠ 0 ∧ b.ctl.delayCount ≤ cyclesOf (instrInfo .nop) b ∧
        b.ctl.delayFrom = some 0x00FF ∧ ({ wit with ctl := { wit.ctl with inTrap := true } } : State).ctl.inTrap = true) ∧
    jumpRecord (.br 0x0200 .always) 0x0100 0x0200 = [⟨true, 0x0100⟩] ∧
    jumpRecord (.movLongReg 0x0200 .pc) 0x0100 0x0200 = [⟨false, 0x0100⟩, ⟨false, 0x0200⟩] ∧
    (let t : State := { wit with ocem := { wit.ocem with mode0 := 0x1000, trace := traceUnused :: List.replicate 15 ⟨false, 5⟩ } };
      t.ocem.mode0.getLsbD 12 = true ∧ traceUnused ∈ t.ocem.trace ∧ traceUnused ∉ (traceOne 0x0100 t).ocem.trace) ∧
    nextWith (takeException .int2 wit) (fun t => t.ocem.trace.length == 16) = true := by decide +kernel

theorem witness_InterruptAcceptance_noJump : ¬(transfers .nop wit ∨ writesReg .nop .pc) := by
  simp [transfers, writesReg]

/-- The last word of the last mailbox in the three layouts, owned by the Oak and by the ARM; offsets that are aborts. -/
theorem witness_MailboxAgents : (7 : Nat) < 8 ∧ oakOwns wit.dpmb 0xFF = true ∧
    [(0#2, 0xE0), (1#2, 0xF0), (2#2, 0xF0)].all (fun p => ({ wit with dpmb := { wit.dpmb with config := p.1 } } : State).dpmb.config
      == p.1 && decide (p.2 ≤ (0xFF#8).toNat) && decide ((0xFF#8).toNat < 0x100)) = true ∧
    (let s : State := { wit with dpmb := { wit.dpmb with ato := 0xFF, oie := 0xFF } };
      oakOwns s.dpmb 0xFF = false ∧ oakOwns s.dpmb 0xFE = false ∧ (0xFE#8).getLsbD 0 = false ∧ Memory.wf s.data = true ∧
        s.dpmb.ato.getLsbD 7 = true ∧ s.dpmb.oie.getLsbD 7 = true) ∧
    (let d : Dpmb := { wit.dpmb with oie := 0xFF, ais := 0xFF };
      d.ato.getLsbD 7 = false ∧ d.oie.getLsbD 7 = true ∧ d.ais.getLsbD 7 = true ∧ wit.dpmb.oie.getLsbD 7 = false) ∧
    (0x3FF#10).toNat % 2 = 1 ∧ (0x002#10).toNat % 4 ≠ 0 := by decide +kernel

/-- No events and one list of them; the codec with REN, TEN and LOOP each way, a FIFO not full and a full one, one word to
take and two; a reset of twelve cycles and one of eleven, with one word at the last address. -/
theorem witness_MailboxAgents_events : wit.inputs = [] ∧
    ({ wit with inputs := [[.pin0 true, .codecTake]] } : State).inputs = [.pin0 true, .codecTake] :: [] ∧
    (let s : State := { wit with codec := { wit.codec with cnt := 0x0003, txFifo := [1, 2] } };
      s.codec.cnt.getLsbD 0 = true ∧ s.codec.cnt.getLsbD 1 = true ∧ s.codec.cnt.getLsbD 13 = false ∧
        s.codec.txFifo = 1 :: [2] ∧ s.codec.rxFifo.length < Config.codecFifoDepth ∧
        Config.codecFifoDepth ≤ (List.replicate Config.codecFifoDepth 0#32).length ∧
        ({ s with codec := { s.codec with cnt := 0x2003, txFifo := [1] } } : State).codec.cnt.getLsbD 13 = true) ∧
    wit.codec.cnt.getLsbD 0 = false ∧ wit.codec.cnt.getLsbD 1 = false ∧ wit.codec.txFifo = [] ∧
    (11 : Nat) < 12 ∧ (12 : Nat) ≤ 12 ∧ (0x5FFF#16).toNat < 0x6000 ∧ Memory.wf wit.prog = true := by decide +kernel

/-- An image that lists address 0 twice and one address that does not exist, and a byte of no word of it. -/
theorem witness_MailboxAgents_image :
    let image : List (Word × Word) := [(0, 1), (0x5FFF, 2), (0, 3), (0x6000, 4)]
    image = [(0, 1), (0x5FFF, 2)] ++ (0, 3) :: [(0x6000, 4)] ∧ (∀ p ∈ [((0x6000, 4) : Word × Word)], p.1 ≠ 0) ∧
      ∀ p ∈ image, p.1.toNat < 0x6000 → 5 ≠ 2 * p.1.toNat ∧ 5 ≠ 2 * p.1.toNat + 1 := by
  refine ⟨rfl, by simp, fun p hp _ => ?_⟩
  simp only [List.mem_cons, List.not_mem_nil, or_false] at hp
  rcases hp with rfl | rfl | rfl | rfl <;> simp

/-- The marks and the state of each order rule with an instruction that breaks it, and the refusal of one step. -/
theorem witness_OrderRules :
    (let s : State := { wit with tm := { wit.tm with movdRecent := [(0x0101, 2)] } };
      orderRefusal (instrInfo .nop) 0x0101 s = some .movdNearPc ∧ orderRefusal (instrInfo .nop) 0x0102 s = none ∧
        orderRefusal (instrInfo (.br 0x0200 .always)) 0x0100 s = some .movdNearPc) ∧
    (let s : State := { wit with tm := { wit.tm with hazRb := true, hazMixp := true, hazExp := true, hazSp := true, hazIcr := true } };
      [(Instr.addRbShort .a0 1, SeqRule.rbThenIndex), (.movMixpReg .r0, .mixpAfterMax), (.movShortSv 1, .svAfterExp),
        (.pushReg .r0, .pushAfterSp), (.bkrepShort 1 0x0110, .bkrepAfterIcr), (.movRegReg .r0 .pc, .pcWithoutNops)].all
        (fun p => orderRefusal (instrInfo p.1) 0x6000 s == some (.sequence p.2)) = true) ∧
    orderRefusal (instrInfo (.movRegReg .r0 .pc)) 0x0100 wit = none ∧
    orderRefusal (instrInfo (.repShort 1)) 0x0100 { wit with ctl := { wit.ctl with repActive := true, repAddr := 0x0100 } } =
      some (.sequence .notRepeatable) ∧
    (let s : State := { wit with ctl := { wit.ctl with
        bc := 2, lp := true, bkStart := 0x0103, bkEnd := 0x0110, bkSaved := [⟨0x0101, 0x0120, 3⟩] } };
      orderRefusal (instrInfo .brk) 0x0103 s = some (.sequence .blockPlacement) ∧
        orderRefusal (instrInfo (.setReg 1 .lc)) 0x0103 s = some (.sequence .blockPlacement) ∧
        orderRefusal (instrInfo .brk) 0x0104 s = none) ∧
    (let s : State := { wit with
        prog := uploadImage [(0x0101, (encode (.addRbShort .a0 1)).headD 0), (0x0103, (encode (.movRegReg .r0 .rb)).headD 0)] []
        ctl := { wit.ctl with bc := 1, lp := true, bkStart := 0x0101, bkEnd := 0x0103 } };
      orderRefusal (instrInfo (.addRbShort .a0 1)) 0x0101 s = some (.sequence .blockPlacement) ∧
        orderRefusal (instrInfo (.movRegReg .r0 .rb)) 0x0103 s = some (.sequence .blockPlacement) ∧
        orderRefusal (instrInfo .nop) 0x0102 s = none ∧
        orderRefusal (instrInfo (.addRbShort .a0 1)) 0x0101 { s with ctl := { s.ctl with bkEnd := 0x0104 } } = none) ∧
    orderRefusal (instrInfo (.brr 3 .always)) 0x0100 { wit with ctl := { wit.ctl with delayCount := 2 } } =
      some (.sequence .delaySlot) ∧
    (let s : State := { wit with pc := 0x5FFF, prog := [(0xBFFE, 0x03), (0xBFFF, 0x0C)], ctl := { wit.ctl with repActive := true, repAddr := 0x5FFF } };
      s.inputs = [] ∧ biAccepted s = false ∧ intAccepted s = none ∧ s.ocem.mode0 = 0 ∧ progMapped s.pc = true ∧
        decodesTo (memWord s.prog s.pc) (memWord s.prog (s.pc + 1)) (.repShort 3) = true ∧
        orderRefusal (instrInfo (.repShort 3)) s.pc s = some (.sequence .notRepeatable)) := by decide +kernel
end Sys2Proof.Tests
end

section
/-! The invariant, part by part: what each shared operation of the machine does to the fields it speaks of. -/

namespace Sys2Proof.Machine

/-! ## What an answer ensures -/

/-- When `r` answers, `P` holds of the answer. -/
def Ensures {α : Type} (r : Res α) (P : α → Prop) : Prop := ∀ x, r = .next x → P x

section
variable {α β : Type} {P : α → Prop} {Q : β → Prop}

@[simp] theorem ensures_next {x : α} : Ensures (.next x) P ↔ P x :=
  ⟨fun h => h x rfl, fun h _ e => Host.Outcome.next.inj e ▸ h⟩

@[simp] theorem ensures_fault {f : Fault} : Ensures (.fault f) P := nofun

@[simp] theorem ensures_refused {e : Refusal} : Ensures (.refused e) P := nofun

theorem ensures_andThen {r : Res α} {f : α → Res β} (hr : Ensures r P) (hf : ∀ x, P x → Ensures (f x) Q) :
    Ensures (andThen r f) Q := by
  intro y hy
  obtain ⟨x, hx, hfx⟩ := andThen_eq_next.1 hy
  exact hf x (hr x hx) y hfx

theorem ensures_checkOperand {P : State → Prop} {o : Option OperandRule} {r : Res State} (h : Ensures r P) :
    Ensures (checkOperand o r) P := fun x hx => h x (checkOperand_eq_next.1 hx).2

theorem ensures_whenCond {P : State → Prop} {cc : Cond} {s : State} {r : Res State} (hs : P s) (h : Ensures r P) :
    Ensures (whenCond cc s r) P := by
  unfold whenCond
  split
  · exact h
  · exact ensures_next.2 hs

end

/-! ## The parts of the invariant -/

/-- A memory list is canonical and each listed key meets `ok`. -/
structure MemInv (ok : Nat → Prop) (m : Mem) : Prop where
  canonical : Memory.wf m = true
  range : ∀ c ∈ m, ok c.1

/-- The invariant's part about loops and delayed returns. -/
structure LoopInv (c : Control) : Prop where
  levels : c.bc.toNat ≤ 4
  inLoop : c.lp = decide (c.bc ≠ 0)
  savedLevels : c.bkSaved.length = c.bc.toNat - 1
  delay : c.delayCount ≤ 2
  pendingClear : ∀ n, c.lpClear = some n → 0 < n.toNat ∧ n.toNat ≤ c.bc.toNat

/-- The invariant's part about the emulation module. -/
structure OcemInv (o : Ocem) : Prop where
  stages : o.trace.length = 16
  status0 : o.status0 &&& 0x0700#16 = 0

/-- The invariant's part about the codec interface. -/
structure CodecInv (c : Codec) : Prop where
  cnt : c.cnt &&& 0xC000#16 = 0
  txDepth : c.txFifo.length ≤ Config.codecFifoDepth
  rxDepth : c.rxFifo.length ≤ Config.codecFifoDepth

section
variable {s t : State}

/-- The invariant is the conjunction of its parts. -/
theorem inv_iff : s.Inv ↔ MemInv (· < 0xC000) s.prog ∧ MemInv storesData s.data ∧ LoopInv s.ctl ∧ OcemInv s.ocem ∧
    CodecInv s.codec ∧ s.tm.fetches ≤ 3 := by
  constructor
  · intro h
    exact ⟨⟨h.progCanonical, h.progRange⟩, ⟨h.dataCanonical, h.dataRange⟩,
      ⟨h.levels, h.inLoop, h.savedLevels, h.delay, h.pendingClear⟩, ⟨h.stages, h.status0⟩,
      ⟨h.codecCnt, h.txDepth, h.rxDepth⟩, h.fetches⟩
  · rintro ⟨hp, hd, hl, ho, hc, hf⟩
    exact ⟨hp.canonical, hp.range, hd.canonical, hd.range, hl.levels, hl.inLoop, hl.savedLevels, hl.delay,
      hl.pendingClear, ho.stages, ho.status0, hc.cnt, hc.txDepth, hc.rxDepth, hf⟩

theorem State.Inv.prog (h : s.Inv) : MemInv (· < 0xC000) s.prog := (inv_iff.1 h).1
theorem State.Inv.data (h : s.Inv) : MemInv storesData s.data := (inv_iff.1 h).2.1
theorem State.Inv.loop (h : s.Inv) : LoopInv s.ctl := (inv_iff.1 h).2.2.1
theorem State.Inv.ocem (h : s.Inv) : OcemInv s.ocem := (inv_iff.1 h).2.2.2.1
theorem State.Inv.codec (h : s.Inv) : CodecInv s.codec := (inv_iff.1 h).2.2.2.2.1

/-- What the invariant reads of the state. -/
def State.guarded (s : State) :=
  (s.prog, s.data, (s.ctl.bc, s.ctl.lp, s.ctl.bkSaved, s.ctl.delayCount, s.ctl.lpClear),
    (s.ocem.trace, s.ocem.status0), (s.codec.cnt, s.codec.txFifo, s.codec.rxFifo), s.tm.fetches)

/-- A change of what the invariant does not read keeps it. -/
theorem State.Inv.of_guarded (h : s.Inv) (e : t.guarded = s.guarded) : t.Inv := by
  simp only [State.guarded, Prod.mk.injEq] at e
  obtain ⟨hprog, hdata, ⟨hbc, hlp, hsaved, hdelay, hclear⟩, ⟨htrace, hstatus⟩, ⟨hcnt, htx, hrx⟩, hfetches⟩ := e
  exact
    { progCanonical := hprog ▸ h.progCanonical
      progRange := hprog ▸ h.progRange
      dataCanonical := hdata ▸ h.dataCanonical
      dataRange := hdata ▸ h.dataRange
      levels := hbc ▸ h.levels
      inLoop := by rw [hlp, hbc, h.inLoop]
      savedLevels := by rw [hsaved, hbc, h.savedLevels]
      delay := hdelay ▸ h.delay
      pendingClear := by rw [hclear, hbc]; exact h.pendingClear
      stages := htrace ▸ h.stages
      status0 := hstatus ▸ h.status0
      codecCnt := hcnt ▸ h.codecCnt
      txDepth := htx ▸ h.txDepth
      rxDepth := hrx ▸ h.rxDepth
      fetches := hfetches ▸ h.fetches }

theorem State.Inv.next (h : s.Inv) (e : t.guarded = s.guarded) : Ensures (.next t) State.Inv :=
  ensures_next.2 (h.of_guarded e)

theorem State.Inv.with_prog (h : s.Inv) {m : Mem} (hm : MemInv (· < 0xC000) m) : State.Inv { s with prog := m } :=
  { h with progCanonical := hm.canonical, progRange := hm.range }

theorem State.Inv.with_data (h : s.Inv) {m : Mem} (hm : MemInv storesData m) : State.Inv { s with data := m } :=
  { h with dataCanonical := hm.canonical, dataRange := hm.range }

theorem State.Inv.with_ctl (h : s.Inv) {c : Control} (hc : LoopInv c) : State.Inv { s with ctl := c } :=
  { h with
    levels := hc.levels
    inLoop := hc.inLoop
    savedLevels := hc.savedLevels
    delay := hc.delay
    pendingClear := hc.pendingClear }

theorem State.Inv.with_ocem (h : s.Inv) {o : Ocem} (ho : OcemInv o) : State.Inv { s with ocem := o } :=
  { h with stages := ho.stages, status0 := ho.status0 }

theorem State.Inv.with_codec (h : s.Inv) {c : Codec} (hc : CodecInv c) : State.Inv { s with codec := c } :=
  { h with codecCnt := hc.cnt, txDepth := hc.txDepth, rxDepth := hc.rxDepth }

end

/-! ## Memory -/

theorem memInv_setWord {ok : Nat → Prop} {m : Mem} (h : MemInv ok m) {a : Word} (v : Word) (h0 : ok (2 * a.toNat))
    (h1 : ok (2 * a.toNat + 1)) : MemInv ok (memSetWord m a v) := by
  refine ⟨wf_setWord a v h.canonical, fun c hc => ?_⟩
  rcases mem_setWord hc with hc | hc | hc
  · exact h.range c hc
  · rwa [hc]
  · rwa [hc]

theorem progInv_setWord {m : Mem} (h : MemInv (· < 0xC000) m) {a : Word} (v : Word) (ha : progMapped a = true) :
    MemInv (· < 0xC000) (memSetWord m a v) := by
  have ha : a.toNat < 0x6000 := by simpa [progMapped] using ha
  exact memInv_setWord h v (by omega) (by omega)

/-- Both bytes of a word stand at a place that stores when its address does. -/
theorem dataInv_setWord {m : Mem} (h : MemInv storesData m) {a : Word} (v : Word)
    (ha : dataRegion a = .ram ∨ (0xE000 ≤ a.toNat ∧ a.toNat < 0xE100)) : MemInv storesData (memSetWord m a v) := by
  have key : ∀ k, k / 2 = a.toNat → storesData k := by
    intro k hk
    have := a.isLt
    refine ⟨by omega, ?_⟩
    rw [hk, BitVec.ofNat_toNat, BitVec.setWidth_eq]
    exact ha
  exact memInv_setWord h v (key _ (by omega)) (key _ (by omega))

theorem mailboxAddr_range (n : BitVec 8) : 0xE000 ≤ (mailboxAddr n).toNat ∧ (mailboxAddr n).toNat < 0xE100 := by
  unfold mailboxAddr
  rw [BitVec.toNat_add, BitVec.toNat_setWidth, BitVec.toNat_ofNat]
  have := n.isLt
  omega

theorem dataInv_setMailbox {m : Mem} (h : MemInv storesData m) (n : BitVec 8) (v : Word) :
    MemInv storesData (memSetWord m (mailboxAddr n) v) :=
  dataInv_setWord h v (.inr (mailboxAddr_range n))

/-- Uploaded program words stand in program memory. -/
theorem progInv_uploadImage (l : List (Word × Word)) {m : Mem} (h : MemInv (· < 0xC000) m) :
    MemInv (· < 0xC000) (uploadImage l m) := by
  induction l generalizing m with
  | nil => exact h
  | cons p t ih =>
    rw [uploadImage]
    split
    · exact ih (progInv_setWord h _ ‹_›)
    · exact ih h

/-! ## Loops -/

theorem loopInv_reset : LoopInv Control.reset := ⟨by decide, by decide, by decide, by decide, nofun⟩

theorem loopInv_leaveAll {c : Control} (h : c.delayCount ≤ 2) :
    LoopInv { c with lp := false, bc := 0, bkSaved := [], lpClear := none } :=
  ⟨Nat.zero_le _, rfl, rfl, h, nofun⟩

theorem loopInv_with_lpClear {c : Control} (h : LoopInv c) (hlp : c.lp = true) :
    LoopInv { c with lpClear := some c.bc } := by
  refine { h with pendingClear := fun n hn => ?_ }
  have hbc : c.bc ≠ 0 := by simpa [hlp] using h.inLoop
  obtain rfl : c.bc = n := Option.some.inj hn
  exact ⟨by bv_omega, Nat.le_refl _⟩

theorem leaveAll_inv {s : State} (h : s.Inv) : (leaveAll s).Inv := h.with_ctl (loopInv_leaveAll h.delay)

theorem writeIcr_inv (v addr : Word) {s : State} (h : s.Inv) : (writeIcr v addr s).Inv := by
  unfold writeIcr
  dsimp only
  split
  · split
    · rename_i hlp
      rw [Bool.and_eq_true] at hlp
      exact (h.with_ctl (loopInv_with_lpClear h.loop hlp.1)).of_guarded rfl
    · exact leaveAll_inv (h.of_guarded rfl)
  · exact h.of_guarded rfl

theorem applyLpClear_inv (n : BitVec 3) {s : State} (h : s.Inv) : (applyLpClear n s).Inv := by
  unfold applyLpClear
  split
  · exact leaveAll_inv h
  · exact h

/-- One level of block repeat has ended: one level less, and the saved levels are one shorter. -/
theorem leaveBlock_levels {s : State} (h : LoopInv s.ctl) (hbc : s.ctl.bc ≠ 0) :
    (leaveBlock s).ctl.bc = s.ctl.bc - 1 ∧ (leaveBlock s).ctl.lp = decide (s.ctl.bc - 1 ≠ 0) ∧
      (leaveBlock s).ctl.bkSaved.length = (s.ctl.bc - 1).toNat - 1 ∧
      (leaveBlock s).ctl.delayCount = s.ctl.delayCount ∧ (leaveBlock s).ctl.lpClear = s.ctl.lpClear := by
  have hsaved := h.savedLevels
  unfold leaveBlock
  split
  · have h1 : s.ctl.bc - 1 = 0 := by bv_omega
    rw [h1]
    exact ⟨rfl, rfl, show s.ctl.bkSaved.length = 0 by omega, rfl, rfl⟩
  · have hlp : s.ctl.lp = true := by rw [h.inLoop]; simpa using hbc
    have h1 : s.ctl.bc - 1 ≠ 0 := by bv_omega
    have h2 : (s.ctl.bc - 1).toNat = s.ctl.bc.toNat - 1 := by bv_omega
    unfold popBlock
    split
    · rename_i f l hl
      rw [hl, List.length_cons] at hsaved
      exact ⟨rfl, by simpa [hlp] using h1, by dsimp only; omega, rfl, rfl⟩
    · rename_i hl
      rw [hl, List.length_nil] at hsaved
      omega

/-- When a level ends, a clear that waited for it acts, so that no clear waits for more levels than are left. -/
theorem loopInv_endBlock {s : State} (h : LoopInv s.ctl) (hbc : s.ctl.bc ≠ 0) : LoopInv (endBlock s).ctl := by
  obtain ⟨hlevels, hlp, hsaved, hdelay, hclear⟩ := leaveBlock_levels h hbc
  unfold endBlock applyLpClear
  split
  · exact loopInv_leaveAll (hdelay ▸ h.delay)
  · rename_i hne
    have hmax := h.levels
    refine ⟨by rw [hlevels]; bv_omega, by rw [hlp, hlevels], by rw [hsaved, hlevels], hdelay ▸ h.delay, fun n hn => ?_⟩
    obtain ⟨hpos, hle⟩ := h.pendingClear n (hclear ▸ hn)
    have hn' : n ≠ s.ctl.bc := by
      rintro rfl
      simp [hn] at hne
    rw [hlevels]
    exact ⟨hpos, by bv_omega⟩

theorem endBlock_inv {s : State} (h : s.Inv) (hbc : s.ctl.bc ≠ 0) : (endBlock s).Inv := by
  rw [endBlock_frame]
  exact (h.with_ctl (loopInv_endBlock h.loop hbc)).of_guarded rfl

/-- A new level inside fewer than four is at most the fourth, and the running one is saved. -/
theorem loopInv_enter {c : Control} (h : LoopInv c) (hlt : c.bc.toNat < 4) (f : BkFrame) (first last : Word) :
    LoopInv { c with
      bkSaved := if c.bc == 0 then c.bkSaved else f :: c.bkSaved
      bkStart := first
      bkEnd := last
      lp := true
      bc := c.bc + 1 } := by
  have hbc : (c.bc + 1).toNat = c.bc.toNat + 1 := by bv_omega
  have hne : c.bc + 1 ≠ 0 := by bv_omega
  have hsaved := h.savedLevels
  refine ⟨by dsimp only; omega, by simpa using hne, ?_, h.delay, fun n hn => ?_⟩
  · dsimp only
    split
    · rename_i h0
      rw [beq_iff_eq.1 h0] at hsaved hbc
      rw [hsaved, beq_iff_eq.1 h0, hbc]
      rfl
    · rename_i h0
      have : c.bc.toNat ≠ 0 := by simp at h0; bv_omega
      rw [List.length_cons]
      omega
  · obtain ⟨hpos, hle⟩ := h.pendingClear n hn
    exact ⟨hpos, by dsimp only; omega⟩

theorem enterBlock_inv (n last : Word) {s : State} (h : s.Inv) : Ensures (enterBlock n last s) State.Inv := by
  unfold enterBlock
  split
  · exact ensures_refused
  · rename_i hc
    have hlt : s.ctl.bc.toNat < 4 := by simp at hc; omega
    exact ensures_next.2 ((h.with_ctl (loopInv_enter h.loop hlt _ _ _)).of_guarded rfl)

/-! ## Emulation module -/

/-- The causes the module sets are no reserved bits of STATUS0. -/
theorem ocemInv_cause {k : Nat} (hk : k < 8 ∨ 11 ≤ k) {o : Ocem} (h : OcemInv o) : OcemInv (ocemCause k o) := by
  refine ⟨h.stages, ?_⟩
  have hb : (1#16 <<< k) &&& 0x0700#16 = 0 := by
    rcases hk with hk | hk
    · interval_cases k <;> rfl
    · rcases Nat.lt_or_ge k 16 with hlt | hge
      · interval_cases k <;> rfl
      · rw [BitVec.shiftLeft_eq_zero hge, BitVec.zero_and]
        rfl
  show (o.status0 ||| 1#16 <<< k) &&& 0x0700#16 = 0
  rw [BitVec.and_or_distrib_right, h.status0, hb]
  rfl

/-- A change of the module's fields other than the trace buffer and STATUS0 keeps its part of the invariant. -/
theorem OcemInv.of_same {o p : Ocem} (h : OcemInv o) (ht : p.trace = o.trace) (hs : p.status0 = o.status0) :
    OcemInv p := ⟨ht ▸ h.stages, hs ▸ h.status0⟩

theorem ocemBreak_inv {k : Nat} (hk : k < 8 ∨ 11 ≤ k) {s : State} (h : s.Inv) : (ocemBreak k s).Inv :=
  h.with_ocem ((ocemInv_cause hk h.ocem).of_same rfl rfl)

theorem ocemDataBreak_inv {k : Nat} (hk : k < 8) {s : State} (h : s.Inv) : (ocemDataBreak k s).Inv :=
  h.with_ocem ((ocemInv_cause (.inl hk) h.ocem).of_same rfl rfl)

theorem ocemDataWatch_inv (b : State) (dx vx : Nat) (a : Word) (v : Option Word) {s : State} (h : s.Inv) :
    (ocemDataWatch b dx vx a v s).Inv := by
  unfold ocemDataWatch
  dsimp only
  split
  · split
    · exact ocemDataBreak_inv (by decide) h
    · exact h
  · have ht : ∀ da : Bool, (if da then ocemDataBreak 1 s else s).Inv := fun da => by
      split
      · exact ocemDataBreak_inv (by decide) h
      · exact h
    split
    · exact ocemDataBreak_inv (by decide) (ht _)
    · exact ht _

theorem ocemWatch_inv (r : Bool) (a : Word) (v : Option Word) (b : State) {s : State} (h : s.Inv) :
    (ocemWatch r a v b s).Inv := by
  unfold ocemWatch
  split
  · exact h
  · have ht : (if b.ocem.mode0.getLsbD 14 && ocemIllegalAddr a then ocemBreak 14 s else s).Inv := by
      split
      · exact ocemBreak_inv (by decide) h
      · exact h
    dsimp only
    split
    · exact ocemDataWatch_inv _ _ _ _ _ ht
    · exact ocemDataWatch_inv _ _ _ _ _ ht

theorem ocemExternal_inv {s : State} (h : s.Inv) : (ocemExternal s).Inv := by
  unfold ocemExternal
  split
  · exact ocemBreak_inv (by decide) h
  · exact h

theorem ocemExtWatch_inv (k : Nat) {s : State} (h : s.Inv) : (ocemExtWatch k s).Inv := by
  unfold ocemExtWatch
  split
  · exact ocemBreak_inv (by decide) h
  · exact h

theorem tracePush_inv (e : TraceEntry) {s : State} (h : s.Inv) : (tracePush e s).Inv := by
  have ht : State.Inv { s with ocem := { s.ocem with trace := (traceSettle s.ocem.trace).tail ++ [e] } } := by
    refine h.with_ocem ⟨?_, h.status0⟩
    have := (traceSettle_perm s.ocem.trace).length_eq
    have := h.stages
    simp only [List.length_append, List.length_tail, List.length_singleton]
    omega
  unfold tracePush
  dsimp only
  split
  · exact ocemBreak_inv (by decide) ht
  · exact ht

theorem traceOne_inv (src : Word) {s : State} (h : s.Inv) : (traceOne src s).Inv := tracePush_inv _ h

theorem traceTwo_inv (src dst : Word) {s : State} (h : s.Inv) : (traceTwo src dst s).Inv :=
  tracePush_inv _ (tracePush_inv _ h)

/-- A read of PFT takes one stage away and puts an unused one in its place. -/
theorem ocemRead_inv (a : Word) {s : State} (h : s.Inv) : (ocemRead a s).2.Inv := by
  unfold ocemRead
  split
  case h_12 =>
    refine h.with_ocem ⟨?_, h.status0⟩
    have := h.stages
    simp only [List.length_append, List.length_tail, List.length_singleton]
    omega
  all_goals exact h

theorem ocemInv_write (a v : Word) {o : Ocem} (h : OcemInv o) : OcemInv (ocemWrite a v o) := by
  unfold ocemWrite
  split
  case h_1 =>
    refine ⟨h.stages, ?_⟩
    show v &&& 0xF8FF#16 &&& 0x0700#16 = 0
    rw [BitVec.and_assoc]
    exact BitVec.and_zero
  all_goals exact h.of_same rfl rfl

/-! ## Codec interface -/

/-- A change of the codec's latches, formats and waiting halves keeps its part of the invariant. -/
theorem CodecInv.of_same {c d : Codec} (h : CodecInv c) (hc : d.cnt = c.cnt) (ht : d.txFifo = c.txFifo)
    (hr : d.rxFifo = c.rxFifo) : CodecInv d := ⟨hc ▸ h.cnt, ht ▸ h.txDepth, hr ▸ h.rxDepth⟩

theorem codecInv_flagIf (b : Bool) (k : Nat) {c : Codec} (h : CodecInv c) : CodecInv (codecFlagIf b k c) := by
  unfold codecFlagIf codecFlag
  split
  · exact h.of_same rfl rfl rfl
  · exact h

theorem codecInv_txPush (e : BitVec 32) {c : Codec} (h : CodecInv c)
    (hroom : c.txFifo.length < Config.codecFifoDepth) : CodecInv (codecTxPush e c) :=
  codecInv_flagIf _ _ ⟨h.cnt, by simpa using hroom, h.rxDepth⟩

theorem codecInv_txWrite (v : Word) {c : Codec} (h : CodecInv c) : CodecInv (codecTxWrite v c) := by
  unfold codecTxWrite
  split
  · exact h.of_same rfl rfl rfl
  · rename_i hroom
    rw [Nat.not_le] at hroom
    split
    · split
      · exact h.of_same rfl rfl rfl
      · exact codecInv_txPush _ (h.of_same rfl rfl rfl) hroom
    · exact codecInv_txPush _ h hroom

theorem codecInv_arrive (e : BitVec 32) {c : Codec} (h : CodecInv c) : CodecInv (codecArrive e c) := by
  unfold codecArrive
  split
  · exact h.of_same rfl rfl rfl
  · rename_i hroom
    refine codecInv_flagIf _ _ (codecInv_flagIf _ _ ⟨h.cnt, h.txDepth, ?_⟩)
    rw [Nat.not_le] at hroom
    simpa using hroom

theorem codecInv_deliver (e : BitVec 32) {c : Codec} (h : CodecInv c) : CodecInv (codecDeliver e c) := by
  unfold codecDeliver
  split
  · exact codecInv_arrive e h
  · exact h

theorem codecInv_take {c : Codec} (h : CodecInv c) : CodecInv (codecTake c) := by
  unfold codecTake
  split
  · split
    · exact h
    · rename_i e l hl
      have hd : CodecInv (codecFlagIf l.isEmpty 0 { c with txFifo := l }) := by
        have := h.txDepth
        rw [hl, List.length_cons] at this
        exact codecInv_flagIf _ _ ⟨h.cnt, by dsimp only; omega, h.rxDepth⟩
      dsimp only
      split
      · exact codecInv_arrive e hd
      · exact hd
  · exact h

theorem codecInv_rxPopped {c : Codec} (h : CodecInv c) : CodecInv (codecRxPopped c) := codecInv_flagIf _ _ h

theorem codecInv_tail {c : Codec} {e : BitVec 32} {l : List (BitVec 32)} (h : CodecInv c) (hl : c.rxFifo = e :: l)
    (w : Option Word) : CodecInv { c with rxFifo := l, rxHalf := w } := by
  have := h.rxDepth
  rw [hl, List.length_cons] at this
  exact ⟨h.cnt, h.txDepth, by dsimp only; omega⟩

theorem codecRxRead_inv {s : State} (h : s.Inv) : (codecRxRead s).2.Inv := by
  unfold codecRxRead
  split
  · exact h.with_codec (codecInv_rxPopped (h.codec.of_same rfl rfl rfl))
  · split
    · exact h.of_guarded rfl
    · rename_i hl
      split
      · exact h.with_codec (codecInv_tail h.codec hl _)
      · exact h.with_codec (codecInv_rxPopped (codecInv_tail h.codec hl _))

theorem codecRead_inv (a : Word) {s : State} (h : s.Inv) : (codecRead a s).2.Inv := by
  unfold codecRead
  split
  case h_4 => exact h.with_codec (h.codec.of_same rfl rfl rfl)
  case h_5 => exact h.of_guarded rfl
  case h_6 => exact codecRxRead_inv h
  all_goals exact h

theorem codecInv_write (a v : Word) {c : Codec} (h : CodecInv c) : CodecInv (codecWrite a v c) := by
  unfold codecWrite
  split
  case h_1 =>
    refine ⟨?_, h.txDepth, h.rxDepth⟩
    show v &&& 0x3FFF#16 &&& 0xC000#16 = 0
    rw [BitVec.and_assoc]
    exact BitVec.and_zero
  case h_4 => exact codecInv_txWrite v h
  all_goals exact h.of_same rfl rfl rfl

/-! ## Data and program accesses -/

theorem dataReadRaw_inv (a : Word) {s : State} (h : s.Inv) : Ensures (dataReadRaw a s) fun q => q.2.Inv := by
  unfold dataReadRaw
  split
  · exact ensures_next.2 h
  · dsimp only
    split
    · exact ensures_next.2 h
    · exact ensures_next.2 (h.of_guarded rfl)
  · exact ensures_next.2 h
  · exact ensures_next.2 (codecRead_inv a h)
  · exact ensures_next.2 (ocemRead_inv a h)
  · exact ensures_fault

theorem dataRead_inv (a : Word) {s : State} (h : s.Inv) : Ensures (dataRead a s) fun q => q.2.Inv :=
  ensures_andThen (dataReadRaw_inv a h) fun _ hq => ensures_next.2 (ocemWatch_inv _ _ _ _ hq)

theorem dataWriteRaw_inv (a v : Word) {s : State} (h : s.Inv) : Ensures (dataWriteRaw a v s) State.Inv := by
  unfold dataWriteRaw
  split
  · exact ensures_next.2 (h.with_data (dataInv_setWord h.data v (.inl ‹_›)))
  · dsimp only
    split
    · exact ensures_next.2 (h.with_data (dataInv_setMailbox h.data _ v))
    · exact ensures_next.2 h
  · exact h.next rfl
  · exact ensures_next.2 (h.with_codec (codecInv_write a v h.codec))
  · exact ensures_next.2 (h.with_ocem (ocemInv_write a v h.ocem))
  · exact ensures_fault

theorem dataWrite_inv (a v : Word) {s : State} (h : s.Inv) : Ensures (dataWrite a v s) State.Inv :=
  ensures_andThen (dataWriteRaw_inv a v h) fun _ ht => ensures_next.2 (ocemWatch_inv _ _ _ _ ht)

theorem progRead_inv (a : Word) {s : State} (h : s.Inv) : Ensures (progRead a s) fun q => q.2.Inv := fun q hq =>
  h.of_guarded (by rw [progRead_frame hq]; rfl)

theorem progWrite_inv (a v : Word) {s : State} (h : s.Inv) : Ensures (progWrite a v s) State.Inv := by
  unfold progWrite
  split
  · exact ensures_next.2 (h.with_prog (progInv_setWord h.prog v ‹_›))
  · exact ensures_fault

theorem push_inv (v : Word) {s : State} (h : s.Inv) : Ensures (push v s) State.Inv :=
  dataWrite_inv _ v (h.of_guarded rfl)

theorem popWord_inv {s : State} (h : s.Inv) : Ensures (popWord s) fun q => q.2.Inv :=
  ensures_andThen (dataRead_inv _ h) fun _ hq => ensures_next.2 (hq.of_guarded rfl)

end Sys2Proof.Machine
end

section
/-! The invariant across the instructions: the register operations, the operand forms, and `exec`. -/

namespace Sys2Proof.Machine

/-! ## Register operations leave the guarded parts -/

section
variable (s : State)

@[simp] theorem guarded_setAcc (a : Acc) (v : Acc36) : (setAcc a v s).guarded = s.guarded := by cases a <;> rfl

@[simp] theorem guarded_setRN (n : RN) (v : Word) : (setRN n v s).guarded = s.guarded := by cases n <;> rfl

@[simp] theorem guarded_postMod (n : RN) (m : PostMod) (d : Bool) : (postMod n m d s).guarded = s.guarded := by
  rw [postMod_frame, guarded_setRN]
  rfl

@[simp] theorem guarded_with_fl (f : Flags) : State.guarded { s with fl := f } = s.guarded := rfl

@[simp] theorem guarded_writeResult (a : Acc) (v : Acc36) (f : Flags → Flags) :
    (writeResult a v f s).guarded = s.guarded := guarded_setAcc _ a v

@[simp] theorem guarded_moveToAcc (a : Acc) (v : Acc36) : (moveToAcc a v s).guarded = s.guarded := guarded_setAcc s a v

@[simp] theorem guarded_multiply (ys xs : Bool) (y x : Word) : (multiply ys xs y x s).guarded = s.guarded := rfl

@[simp] theorem guarded_shiftInto (a : Acc) (v : Acc36) (n : Int) : (shiftInto a v n s).guarded = s.guarded := by
  unfold shiftInto
  split
  · exact guarded_writeResult ..
  · exact guarded_writeResult ..

@[simp] theorem guarded_doAdd (a : AccA) (b : Acc36) : (doAdd a b s).guarded = s.guarded := guarded_writeResult ..
@[simp] theorem guarded_doSub (a : AccA) (b : Acc36) : (doSub a b s).guarded = s.guarded := guarded_writeResult ..
@[simp] theorem guarded_doCmp (a : AccA) (b : Acc36) : (doCmp a b s).guarded = s.guarded := rfl
@[simp] theorem guarded_doOr (a : AccA) (b : Acc36) : (doOr a b s).guarded = s.guarded := guarded_writeResult ..
@[simp] theorem guarded_doXor (a : AccA) (b : Acc36) : (doXor a b s).guarded = s.guarded := guarded_writeResult ..
@[simp] theorem guarded_doAnd36 (a : AccA) (b : Acc36) : (doAnd36 a b s).guarded = s.guarded := guarded_writeResult ..
@[simp] theorem guarded_doAnd16 (a : AccA) (v : Word) : (doAnd16 a v s).guarded = s.guarded := guarded_writeResult ..
@[simp] theorem guarded_doAnd8 (a : AccA) (v : BitVec 8) : (doAnd8 a v s).guarded = s.guarded := guarded_writeResult ..
@[simp] theorem guarded_doShift (a : Acc) (n : Int) : (doShift a n s).guarded = s.guarded := guarded_shiftInto ..
@[simp] theorem guarded_doRor (a : Acc) : (doRor a s).guarded = s.guarded := guarded_writeResult ..
@[simp] theorem guarded_doRol (a : Acc) : (doRol a s).guarded = s.guarded := guarded_writeResult ..
@[simp] theorem guarded_doSet (a : Acc) (v : Acc36) : (doSet a v s).guarded = s.guarded := guarded_writeResult ..
@[simp] theorem guarded_doAddTo (a : Acc) (v w : Acc36) : (doAddTo a v w s).guarded = s.guarded := guarded_writeResult ..
@[simp] theorem guarded_doSubTo (a : Acc) (v w : Acc36) : (doSubTo a v w s).guarded = s.guarded := guarded_writeResult ..
@[simp] theorem guarded_doDivs (a : AccA) (v : Word) : (doDivs a v s).guarded = s.guarded := guarded_writeResult ..

@[simp] theorem guarded_doMac (a : AccA) (b : Acc36) (ys xs : Bool) (y x : Word) :
    (doMac a b ys xs y x s).guarded = s.guarded := guarded_writeResult ..

@[simp] theorem guarded_doMsu (a : AccA) (y x : Word) : (doMsu a y x s).guarded = s.guarded := guarded_writeResult ..

@[simp] theorem guarded_latchExtreme (take : Bool) (a : AccA) (v : Acc36) (m : PostMod) :
    (latchExtreme take a v m s).guarded = s.guarded := by
  unfold latchExtreme
  rw [guarded_postMod]
  split
  · exact guarded_setAcc ..
  · rfl

@[simp] theorem guarded_doNorm (a : AccA) (n : RN) (m : PostMod) : (doNorm a n m s).guarded = s.guarded := by
  unfold doNorm
  split
  · rfl
  · exact (guarded_postMod ..).trans (guarded_writeResult ..)

@[simp] theorem guarded_doExp (v : Acc36) (dst : Option AccA) : (doExp v dst s).guarded = s.guarded := by
  cases dst with
  | none => rfl
  | some a => exact guarded_setAcc ..

@[simp] theorem guarded_movePTo (r : Reg) : (movePTo r s).guarded = s.guarded := by
  unfold movePTo
  split
  · exact guarded_moveToAcc ..
  · rfl

@[simp] theorem guarded_exchangeAcc (a b : Acc) : (exchangeAcc a b s).guarded = s.guarded := by
  simp only [exchangeAcc, guarded_setAcc]

@[simp] theorem guarded_swapAccs (o : SwapOpt) : (swapAccs o s).guarded = s.guarded := by
  unfold swapAccs chainAcc
  split <;> simp only [guarded_exchangeAcc, guarded_setAcc]

@[simp] theorem guarded_contextRestore : (contextRestore s).guarded = s.guarded := rfl

@[simp] theorem guarded_satRead (a : Acc) (h : Half) : (satRead a h s).2.guarded = s.guarded := by
  rw [satRead_frame]
  rfl

end

section
variable {s : State}

/-! ## Operands -/

theorem readReg_inv (r : Reg) (h : s.Inv) : (readReg r s).2.Inv := by
  unfold readReg
  split
  · exact ocemExtWatch_inv _ (h.of_guarded rfl)
  · exact h

theorem readRegSat_inv (r : Reg) (h : s.Inv) : (readRegSat r s).2.Inv := by
  unfold readRegSat
  split
  · exact h.of_guarded (guarded_satRead ..)
  · exact readReg_inv r h

theorem readWide_inv (r : Reg) (h : s.Inv) : (readWide r s).2.Inv := by
  unfold readWide
  split
  case h_4 => exact readReg_inv r h
  all_goals exact h

theorem readWideLogic_inv (r : Reg) (h : s.Inv) : (readWideLogic r s).2.Inv := by
  unfold readWideLogic
  split
  case h_4 => exact readReg_inv r h
  all_goals exact h

theorem expReg36_inv (r : Reg) (h : s.Inv) : (expReg36 r s).2.Inv := by
  unfold expReg36
  split
  case h_3 => exact readReg_inv r h
  all_goals exact h

theorem readY_inv (j : RJ) (m : PostMod) (h : s.Inv) : Ensures (readY j m s) fun q => q.2.Inv := by
  have ht := h.of_guarded (guarded_postMod s (rnOfJ j) m false)
  unfold readY
  dsimp only
  split
  · exact ensures_next.2 (ocemWatch_inv _ _ _ _ ht)
  · exact ensures_next.2 (ht.of_guarded rfl)

theorem readX_inv (i : RI) (m : PostMod) (h : s.Inv) : Ensures (readX i m s) fun q => q.2.Inv := by
  have ht := h.of_guarded (guarded_postMod s (rnOfI i) m false)
  unfold readX
  dsimp only
  split
  · exact ensures_next.2 (ht.of_guarded rfl)
  · exact dataRead_inv _ ht

/-! ## Operand forms: what goes on from an operand keeps the invariant when it does so from every state -/

/-- What `k` answers from a state that meets the invariant meets it. -/
def Continues (k : Word → State → Res State) : Prop := ∀ v t, t.Inv → Ensures (k v t) State.Inv

theorem continues_read {r : Res (Word × State)} {k : Word → State → Res State} (hr : Ensures r fun q => q.2.Inv)
    (hk : Continues k) : Ensures (andThen r fun q => k q.1 q.2) State.Inv :=
  ensures_andThen hr fun q hq => hk q.1 q.2 hq

theorem withDirect_inv (d : BitVec 8) (h : s.Inv) {k} (hk : Continues k) : Ensures (withDirect d s k) State.Inv :=
  continues_read (dataRead_inv _ h) hk

theorem withInd_inv (n : RN) (m : PostMod) (h : s.Inv) {k} (hk : Continues k) : Ensures (withInd n m s k) State.Inv :=
  continues_read (dataRead_inv _ (h.of_guarded (guarded_postMod ..))) hk

theorem withLongDirect_inv (a : Word) (h : s.Inv) {k} (hk : Continues k) : Ensures (withLongDirect a s k) State.Inv :=
  continues_read (dataRead_inv _ h) hk

theorem withRbShort_inv (o : BitVec 7) (h : s.Inv) {k} (hk : Continues k) : Ensures (withRbShort o s k) State.Inv :=
  continues_read (dataRead_inv _ h) hk

theorem withRbLong_inv (o : Word) (h : s.Inv) {k} (hk : Continues k) : Ensures (withRbLong o s k) State.Inv :=
  continues_read (dataRead_inv _ h) hk

theorem withReg_inv (r : Reg) (h : s.Inv) {k} (hk : Continues k) : Ensures (withReg r s k) State.Inv :=
  hk _ _ (readReg_inv r h)

theorem withRegSat_inv (r : Reg) (h : s.Inv) {k} (hk : Continues k) : Ensures (withRegSat r s k) State.Inv :=
  hk _ _ (readRegSat_inv r h)

theorem withDual_inv (j : RJ) (mj : PostMod) (i : RI) (mi : PostMod) (h : s.Inv) {k : Word → Word → State → Res State}
    (hk : ∀ y, Continues (k y)) : Ensures (withDual j mj i mi s k) State.Inv :=
  ensures_andThen (readY_inv j mj h) fun q hq => continues_read (readX_inv i mi hq) (hk q.1)

/-- An operation on registers and flags goes on from every operand. -/
theorem continues_next {f : Word → State → State} (hf : ∀ v t, (f v t).guarded = t.guarded) :
    Continues fun v t => .next (f v t) := fun v t ht => ht.next (hf v t)

/-! ## Register and memory results -/

theorem writeReg_inv (r : Reg) (v : Word) (h : s.Inv) : (writeReg r v s).Inv := by
  have hext : ∀ k, (extWrite k v s).Inv := fun k => ocemExtWatch_inv _ (h.of_guarded rfl)
  unfold writeReg
  split
  case h_21 | h_22 | h_23 | h_24 => exact hext _
  all_goals exact h.of_guarded rfl

theorem writeRegPart_inv (r : Reg) (v : Word) (h : s.Inv) : (writeRegPart r v s).Inv := by
  unfold writeRegPart
  split
  · exact h.of_guarded (guarded_setAcc ..)
  · exact writeReg_inv r v h

/-- The write of a register by a move, by movp and by pop: the flags of an accumulator it names follow. -/
theorem moveToReg_inv (r : Reg) (v : Word) (h : s.Inv) : (moveToReg r v s).Inv := by
  have ht := writeReg_inv r v h
  unfold moveToReg
  dsimp only
  split
  · exact ht.of_guarded rfl
  · exact ht

theorem movpToReg_inv (r : Reg) (v : Word) (h : s.Inv) : (movpToReg r v s).Inv := by
  have ht := writeReg_inv r v h
  unfold movpToReg
  dsimp only
  split
  · exact ht.of_guarded rfl
  · exact ht

theorem popToReg_inv (r : Reg) (v : Word) (h : s.Inv) : (popToReg r v s).Inv := by
  have ht := writeReg_inv r v h
  unfold popToReg
  dsimp only
  split
  · exact ht.of_guarded rfl
  · exact ht

theorem storeHalf_inv (a : Acc) (x : Half) (addr : Word) (h : s.Inv) : Ensures (storeHalf a x addr s) State.Inv :=
  dataWrite_inv _ _ (h.of_guarded (guarded_satRead ..))

theorem albReg_inv (f : Word → Word) (g : Word → Flags → Flags) (r : Reg) (h : s.Inv) : (albReg f g r s).Inv := by
  have ht := writeRegPart_inv r (f (readReg r s).1) (readReg_inv r h)
  unfold albReg
  dsimp only
  split
  · exact ht
  · exact ht.of_guarded rfl

/-- Read, modify, write back. -/
theorem modify_inv {r : Res (Word × State)} (addr : Word) (f : Word → Word) (g : Word → Flags → Flags)
    (hr : Ensures r fun q => q.2.Inv) : Ensures (andThen r fun q =>
      andThen (dataWrite addr (f q.1) q.2) fun t => .next { t with fl := g q.1 t.fl }) State.Inv :=
  ensures_andThen hr fun _ hq => ensures_andThen (dataWrite_inv _ _ hq) fun _ ht => ht.next rfl

theorem albInd_inv (f : Word → Word) (g : Word → Flags → Flags) (n : RN) (m : PostMod) (h : s.Inv) :
    Ensures (albInd f g n m s) State.Inv :=
  modify_inv _ f g (dataRead_inv _ (h.of_guarded (guarded_postMod ..)))

theorem albDirect_inv (f : Word → Word) (g : Word → Flags → Flags) (d : BitVec 8) (h : s.Inv) :
    Ensures (albDirect f g d s) State.Inv :=
  modify_inv _ f g (dataRead_inv _ h)

/-! ## Calls, returns and exceptions -/

theorem returnTo_inv (v : Word) (h : s.Inv) : (returnTo v s).Inv := by
  unfold returnTo
  split <;> exact h.of_guarded rfl

theorem startRepeat_inv (n : Word) (h : s.Inv) : (startRepeat n s).Inv := h.of_guarded rfl

theorem suspendRepeat_inv (w : Word) (h : s.Inv) : State.Inv { s with ctl := suspendRepeat s.ctl w } := by
  unfold suspendRepeat
  split <;> exact h.of_guarded rfl

theorem endService_inv (later : Bool) (h : s.Inv) : (endService later s).Inv := by
  unfold endService
  split <;> exact h.of_guarded rfl

theorem doCall_inv (target : Word) (h : s.Inv) : Ensures (doCall target s) State.Inv :=
  ensures_andThen (push_inv _ h) fun _ ht => ht.next rfl

theorem doReturn_inv (h : s.Inv) : Ensures (doReturn s) State.Inv :=
  ensures_andThen (popWord_inv h) fun _ hq => ensures_next.2 (returnTo_inv _ hq)

/-- A delayed return waits two cycles. -/
theorem startDelayedReturn_inv (h : s.Inv) : Ensures (startDelayedReturn s) State.Inv :=
  ensures_andThen (popWord_inv h) fun _ hq =>
    ensures_next.2 (hq.with_ctl { hq.loop with delay := Nat.le_refl 2 })

theorem takeException_inv (e : Event) (h : s.Inv) : Ensures (takeException e s) State.Inv := by
  refine ensures_andThen (push_inv _ (suspendRepeat_inv _ h)) fun u hu => ?_
  split
  · exact hu.next rfl
  · dsimp only
    split <;> exact hu.next rfl

end

end Sys2Proof.Machine
end

section
/-! Every instruction keeps the invariant. -/

namespace Sys2Proof.Machine

variable {s : State}

theorem continues_albFlags (g : Word → Flags → Flags) : Continues (albFlags g) :=
  continues_next fun _ _ => guarded_with_fl ..

theorem execAndReg_inv (a : AccA) (r : Reg) (h : s.Inv) : Ensures (execAndReg a r s) State.Inv := by
  refine ensures_checkOperand (ensures_next.2 ?_)
  unfold doAndReg
  split
  · exact (readWideLogic_inv r h).of_guarded (guarded_doAnd36 ..)
  · exact (readReg_inv r h).of_guarded (guarded_doAnd16 ..)

theorem execMovRegReg_inv (src dst : Reg) (h : s.Inv) : Ensures (execMovRegReg src dst s) State.Inv := by
  refine ensures_checkOperand ?_
  split
  · exact h.next (guarded_movePTo ..)
  · exact withRegSat_inv src h fun v _ ht => ensures_next.2 (moveToReg_inv dst v ht)

theorem execMovShortHalf_inv (v : BitVec 8) (a : AccA) (x : Half) (h : s.Inv) :
    Ensures (execMovShortHalf v a x s) State.Inv := by
  cases x <;> exact h.next (guarded_moveToAcc ..)

theorem execMovpIndInd_inv (n : RN) (m : PostMod) (i : RI) (mi : PostMod) (h : s.Inv) :
    Ensures (execMovpIndInd n m i mi s) State.Inv :=
  ensures_checkOperand <| ensures_andThen (progRead_inv _ h) fun _ hq =>
    dataWrite_inv _ _ (hq.of_guarded ((guarded_postMod ..).trans (guarded_postMod ..)))

theorem execMovd_inv (i : RI) (mi : PostMod) (j : RJ) (mj : PostMod) (h : s.Inv) :
    Ensures (execMovd i mi j mj s) State.Inv := by
  unfold execMovd
  dsimp only
  split
  · exact ensures_refused
  · refine ensures_andThen (dataRead_inv _ (h.of_guarded ((guarded_postMod ..).trans (guarded_postMod ..)))) fun q hq => ?_
    exact ensures_andThen (progWrite_inv _ _ hq) fun t ht => ht.next rfl

theorem execLoadMod_inv (j : Bool) (v : BitVec 9) (h : s.Inv) : Ensures (execLoadMod j v s) State.Inv := by
  cases j <;> exact h.next rfl

theorem execLoadStep_inv (j : Bool) (v : BitVec 7) (h : s.Inv) : Ensures (execLoadStep j v s) State.Inv := by
  cases j <;> exact h.next rfl

theorem execCntx_inv (restore : Bool) (h : s.Inv) : Ensures (execCntx restore s) State.Inv := by
  cases restore <;> exact h.next rfl

theorem execReti_inv (cc : Cond) (ctx : Bool) (h : s.Inv) : Ensures (execReti cc ctx s) State.Inv := by
  refine ensures_whenCond h (ensures_andThen (doReturn_inv h) fun t ht => ensures_next.2 ?_)
  have hu := endService_inv false ht
  split
  · exact hu.of_guarded (guarded_contextRestore _)
  · exact hu

theorem execRets_inv (v : BitVec 8) (h : s.Inv) : Ensures (execRets v s) State.Inv :=
  ensures_andThen (dataRead_inv _ h) fun _ hq => ensures_next.2 (returnTo_inv _ (hq.of_guarded rfl))

theorem execBrk_inv (h : s.Inv) : Ensures (execBrk s) State.Inv := by
  refine ensures_next.2 ?_
  split
  · exact h
  · exact endBlock_inv h fun h0 => ‹¬_› (beq_iff_eq.2 h0)

theorem execTrap_inv (h : s.Inv) : Ensures (execTrap s) State.Inv := by
  unfold execTrap
  split
  · exact ensures_refused
  · exact takeException_inv _ (h.with_ocem (ocemInv_cause (by decide) h.ocem))

/-- Every instruction keeps the invariant, one group of instructions for each operand form. -/
theorem exec_inv (i : Instr) (h : s.Inv) : Ensures (exec i s) State.Inv := by
  unfold exec
  cases i with
  | orDirect | andDirect | xorDirect | addDirect | cmpDirect | subDirect | msuDirect | addhDirect | addlDirect
  | subhDirect | sublDirect | sqrDirect | sqraDirect | cmpuDirect | divs | mpyDirect | macDirect | maaDirect
  | macsuDirect | movsDirect | movDirectAcc | movDirectHalf | movDirectHighEu =>
    exact withDirect_inv _ h (continues_next fun _ _ => by simp)
  | tst0AccDirect | tst1AccDirect | tst0LongDirect | tst1LongDirect | cmpvDirect | tstbDirect =>
    exact withDirect_inv _ h (continues_albFlags _)
  | movDirectRn | movDirectSv =>
    exact withDirect_inv _ h fun v _ ht => ensures_next.2 (writeReg_inv _ v ht)
  | orInd | andInd | xorInd | addInd | cmpInd | subInd | msuInd | addhInd | addlInd | subhInd | sublInd | sqrInd
  | sqraInd | cmpuInd | mpyInd | mpyLong | mpysuInd | mpysuLong | macInd | macLong | macusInd | macusLong | maaInd
  | maaLong | macuuInd | macuuLong | macsuInd | macsuLong | maasuInd | maasuLong | msuLong | expInd | movsInd
  | movrInd | movIndB =>
    exact withInd_inv _ _ h (continues_next fun _ _ => by simp)
  | tst0AccInd | tst1AccInd | tst0LongInd | tst1LongInd | cmpvInd | tstbInd =>
    exact withInd_inv _ _ h (continues_albFlags _)
  | movIndReg =>
    exact ensures_checkOperand (withInd_inv _ _ h fun v _ ht => ensures_next.2 (moveToReg_inv _ v ht))
  | orLongDirect | andLongDirect | xorLongDirect | addLongDirect | cmpLongDirect | subLongDirect | maxd
  | movLongDirectA =>
    exact withLongDirect_inv _ h (continues_next fun _ _ => by simp)
  | movSpReg => exact withLongDirect_inv _ h fun v _ ht => ensures_next.2 (moveToReg_inv _ v ht)
  | orRbShort | andRbShort | xorRbShort | addRbShort | cmpRbShort | subRbShort | movRbShortA =>
    exact withRbShort_inv _ h (continues_next fun _ _ => by simp)
  | orRbLong | andRbLong | xorRbLong | addRbLong | cmpRbLong | subRbLong | movRbLongA =>
    exact withRbLong_inv _ h (continues_next fun _ _ => by simp)
  | mpyDual | mpysuDual | macDual | macusDual | maaDual | macuuDual | macsuDual | maasuDual | msuDual =>
    exact withDual_inv _ _ _ _ h fun _ => continues_next fun _ _ => by simp
  | orReg _ r | xorReg _ r => exact ensures_checkOperand ((readWideLogic_inv r h).next (by simp))
  | addReg _ r | cmpReg _ r | subReg _ r | movrReg r _ => exact ensures_checkOperand ((readWide_inv r h).next (by simp))
  | expReg r => exact ensures_checkOperand ((expReg36_inv r h).next (by simp))
  | andReg a r => exact execAndReg_inv a r h
  | addhReg | addlReg | subhReg | sublReg | cmpuReg | msuReg | sqrReg | sqraReg | mpyReg | mpysuReg | macReg
  | macusReg | maaReg | macuuReg | macsuReg | maasuReg | movsReg =>
    exact ensures_checkOperand (withReg_inv _ h (continues_next fun _ _ => by simp))
  | tst0AccReg | tst1AccReg | tst0LongReg | tst1LongReg | cmpvReg | tstbReg =>
    exact ensures_checkOperand (withReg_inv _ h (continues_albFlags _))
  | orShort | orLong | andShort | andLong | xorShort | xorLong | addShort | addLong | cmpShort | cmpLong | subShort
  | subLong | norm | max | min | lim | mpyi | shfi | expAcc | movAccAcc | movSpecAcc | movIcrAcc | movLongB
  | movsi | swap =>
    exact h.next (by simp)
  | shrA | shr4A | shlA | shl4A | rorA | rolA | clrA | notA | negA | rndA | pacrA | clrrA | incA | decA | copyA
  | shrB | shr4B | shlB | shl4B | rorB | rolB | clrB | shfc =>
    exact ensures_whenCond h (h.next (by simp))
  | setInd | rstInd | chngInd | addvInd | subvInd => exact albInd_inv _ _ _ _ h
  | setDirect | rstDirect | chngDirect | addvDirect | subvDirect => exact albDirect_inv _ _ _ h
  | setReg | rstReg | chngReg | addvReg | subvReg =>
    exact ensures_checkOperand (ensures_next.2 (albReg_inv _ _ _ h))
  | modr => exact h.next (guarded_postMod s _ _ _)
  | movAccDvm | movAccX => exact h.next (guarded_satRead s _ _)
  | movRegB => exact ensures_checkOperand (withRegSat_inv _ h (continues_next fun _ _ => by simp))
  | movRegMixp => exact ensures_checkOperand (withRegSat_inv _ h (continues_next fun _ _ => rfl))
  | movRegInd =>
    exact ensures_checkOperand (withRegSat_inv _ h fun v _ ht => dataWrite_inv _ v (ht.of_guarded (guarded_postMod ..)))
  | movRegIcr =>
    exact ensures_checkOperand (withRegSat_inv _ h fun v _ ht => ensures_next.2 (writeIcr_inv v _ ht))
  | movShortIcr => exact ensures_next.2 (writeIcr_inv _ _ h)
  | movRegReg src dst => exact execMovRegReg_inv src dst h
  | movMixpReg | movLongReg => exact ensures_next.2 (moveToReg_inv _ _ h)
  | movShortRn | movShortSv => exact ensures_next.2 (writeReg_inv _ _ h)
  | movShortExt => exact ensures_next.2 (ocemExtWatch_inv _ (h.of_guarded rfl))
  | movShortHalf v a x => exact execMovShortHalf_inv v a x h
  | movRnDirect | movSvDirect => exact dataWrite_inv _ _ h
  | movHalfDirect | movALongDirect | movARbShort | movARbLong => exact storeHalf_inv _ _ _ h
  | movpAccReg => exact ensures_andThen (progRead_inv _ h) fun _ hq => ensures_next.2 (movpToReg_inv _ _ hq)
  | movpIndInd n m i mi => exact execMovpIndInd_inv n m i mi h
  | movd i mi j mj => exact execMovd_inv i mi j mj h
  | pushReg => exact ensures_checkOperand (withRegSat_inv _ h fun v _ ht => push_inv v ht)
  | pushLong v => exact push_inv v h
  | pop =>
    exact ensures_checkOperand (ensures_andThen (popWord_inv h) fun _ hq => ensures_next.2 (popToReg_inv _ _ hq))
  | banke | loadPage | loadPs | nop | eint | dint => exact h.next rfl
  | loadMod j v => exact execLoadMod_inv j v h
  | loadStep j v => exact execLoadStep_inv j v h
  | repReg => exact ensures_checkOperand (withReg_inv _ h fun v _ ht => ensures_next.2 (startRepeat_inv v ht))
  | repShort => exact ensures_next.2 (startRepeat_inv _ h)
  | bkrepShort v addr => exact enterBlock_inv _ addr h
  | bkrepReg r addr => exact ensures_checkOperand (withReg_inv r h fun v _ ht => enterBlock_inv v addr ht)
  | br | brr => exact ensures_whenCond h (h.next rfl)
  | call | callr => exact ensures_whenCond h (doCall_inv _ h)
  | calla => exact doCall_inv _ h
  | ret => exact ensures_whenCond h (doReturn_inv h)
  | reti cc ctx => exact execReti_inv cc ctx h
  | rets v => exact execRets_inv v h
  | retd => exact startDelayedReturn_inv h
  | retid => exact ensures_andThen (startDelayedReturn_inv h) fun _ ht => ensures_next.2 (endService_inv true ht)
  | cntx restore => exact execCntx_inv restore h
  | brk => exact execBrk_inv h
  | trap => exact execTrap_inv h

end Sys2Proof.Machine
end

section
/-! The invariant across a step: the other agents, the interrupts, the fetch and the sequencing. -/

namespace Sys2Proof.Machine

variable {s : State}

/-! ## The other agents -/

theorem armRecord_inv (e : ArmAccess) (h : s.Inv) : (armRecord e s).Inv := h.of_guarded rfl

theorem armHalf_inv (o : BitVec 10) (h : s.Inv) : (armHalf o s).2.Inv := by
  rw [armHalf_frame]
  exact h.of_guarded rfl

theorem armReadHalf_inv (o : BitVec 10) (h : s.Inv) : (armReadHalf o s).Inv := by
  unfold armReadHalf
  split
  · exact armRecord_inv _ h
  · exact armRecord_inv _ (armHalf_inv o h)

theorem armReadWord_inv (o : BitVec 10) (h : s.Inv) : (armReadWord o s).Inv := by
  unfold armReadWord
  split
  · exact armRecord_inv _ (armHalf_inv _ (armHalf_inv o h))
  · exact armRecord_inv _ h

theorem armStore_inv (o : BitVec 10) (v : Word) (h : s.Inv) : (armStore o v s).Inv := by
  obtain ⟨hframe, hdata⟩ := armStore_frame o v s
  have hm : MemInv storesData (armStore o v s).data := by
    rcases hdata with hdata | hdata
    · rw [hdata]
      exact h.data
    · rw [hdata]
      exact dataInv_setMailbox h.data _ v
  rw [hframe]
  exact (h.with_data hm).of_guarded rfl

theorem armWriteHalf_inv (o : BitVec 10) (v : Word) (h : s.Inv) : (armWriteHalf o v s).Inv := by
  unfold armWriteHalf
  split
  · exact armRecord_inv _ h
  · exact armStore_inv o v h

theorem armWriteWord_inv (o : BitVec 10) (v : BitVec 32) (h : s.Inv) : (armWriteWord o v s).Inv := by
  unfold armWriteWord
  split
  · exact armStore_inv _ _ (armStore_inv o _ h)
  · exact armRecord_inv _ h

theorem loopInv_freeControl (k : Nat) : LoopInv (freeControl k) :=
  ⟨Nat.zero_le _, rfl, rfl, Nat.zero_le _, nofun⟩

theorem ocemInv_reset (inTrap : Bool) (k : Nat) (o : Ocem) : OcemInv (resetOcem inTrap k o) :=
  ⟨by simp [resetOcem], show (0#16 &&& 0x0700#16) = 0 by decide⟩

theorem codecInv_reset : CodecInv Codec.reset := ⟨rfl, Nat.zero_le _, Nat.zero_le _⟩

/-- A reset by the host keeps the data memory and adds words to the program memory; loops, emulation module and codec
start anew. -/
theorem hostReset_inv (cycles : Nat) (image : List (Word × Word)) (h : s.Inv) :
    Ensures (hostReset cycles image s) State.Inv := by
  unfold hostReset
  split
  · exact ensures_refused
  · exact ensures_next.2 (inv_iff.2 ⟨progInv_uploadImage image h.prog, h.data, loopInv_freeControl _,
      ocemInv_reset _ _ _, codecInv_reset, Nat.zero_le _⟩)

theorem applyEvent_inv (e : AgentEvent) (h : s.Inv) : Ensures (applyEvent e s) State.Inv := by
  cases e with
  | armWriteHalf o v => exact ensures_next.2 (armWriteHalf_inv o v h)
  | armWriteWord o v => exact ensures_next.2 (armWriteWord_inv o v h)
  | armReadHalf o => exact ensures_next.2 (armReadHalf_inv o h)
  | armReadWord o => exact ensures_next.2 (armReadWord_inv o h)
  | armByteAccess o => exact ensures_next.2 (armRecord_inv _ h)
  | hostReset cycles image => exact hostReset_inv cycles image h
  | codecDeliver w => exact ensures_next.2 (h.with_codec (codecInv_deliver w h.codec))
  | codecTake => exact ensures_next.2 (h.with_codec (codecInv_take h.codec))
  | pin0 b => exact h.next rfl
  | pin1 b => exact h.next rfl

theorem applyEvents_inv (es : List AgentEvent) (h : s.Inv) : Ensures (applyEvents es s) State.Inv := by
  induction es generalizing s with
  | nil => exact ensures_next.2 h
  | cons e es ih => exact ensures_andThen (applyEvent_inv e h) fun _ ht => ih ht

theorem agentStep_inv (h : s.Inv) : Ensures (agentStep s) State.Inv := by
  have hs : Ensures (scheduled s) State.Inv := by
    unfold scheduled
    split
    · exact ensures_next.2 h
    · exact applyEvents_inv _ (h.of_guarded rfl)
  exact ensures_andThen hs fun _ ht => ensures_next.2 (ocemExternal_inv ht)

/-! ## Interrupts and the fetch -/

theorem takeBi_inv (h : s.Inv) : Ensures (takeBi s) State.Inv := takeException_inv _ (h.of_guarded rfl)

theorem takeInterrupt_inv (e : Event) (h : s.Inv) : Ensures (takeInterrupt e s) State.Inv := by
  refine ensures_andThen (takeException_inv e h) fun t ht => ensures_next.2 ?_
  have hu : (traceTwo s.tm.lastAddr (vectorOf e) { t with tm := { t.tm with icPrev := icBits t } }).Inv :=
    traceTwo_inv _ _ (ht.of_guarded rfl)
  split
  · exact ocemBreak_inv (by decide) hu
  · exact hu

/-- A breakpoint taken or not. -/
theorem ocemBreakIf_inv (b : Bool) {k : Nat} (hk : k < 8 ∨ 11 ≤ k) (h : s.Inv) :
    (if b then ocemBreak k s else s).Inv := by
  split
  · exact ocemBreak_inv hk h
  · exact h

theorem ocemFetch_inv (a : Word) (h : s.Inv) : (ocemFetch a s).Inv :=
  ocemBreakIf_inv _ (by decide) (ocemBreakIf_inv _ (by decide) (ocemBreakIf_inv _ (by decide) (h.of_guarded rfl)))

theorem fetchInstr_inv (a : Word) (h : s.Inv) : Ensures (fetchInstr a s) fun q => q.2.Inv := by
  refine ensures_andThen (progRead_inv a h) fun q hq => ?_
  split
  · exact ensures_refused
  · split
    · refine ensures_andThen (progRead_inv (a + 1) hq) fun q2 hq2 => ?_
      split
      · exact ensures_refused
      · exact ensures_next.2 hq2
    · exact ensures_next.2 hq

/-! ## After the instruction -/

theorem ocemJump_inv (f : InstrInfo) (a : Word) (b : State) (h : s.Inv) : (ocemJump f a b s).Inv := by
  unfold ocemJump
  split
  · refine ocemBreakIf_inv _ (by decide) ?_
    split
    · exact traceOne_inv a h
    · exact traceTwo_inv a _ h
  · exact h

theorem afterRepeat_inv (a : Word) (b : State) (h : s.Inv) : (afterRepeat a b s).1.Inv := by
  unfold afterRepeat
  dsimp only
  split
  · split <;> exact h.of_guarded rfl
  · exact h

theorem afterBlock_inv (next : Word) (h : s.Inv) : (afterBlock next s).Inv := by
  unfold afterBlock
  split
  · rename_i hend
    have hbc : s.ctl.bc ≠ 0 := by
      rw [Bool.and_eq_true, Bool.and_eq_true] at hend
      obtain ⟨⟨hlp, -⟩, -⟩ := hend
      simpa [hlp] using h.inLoop
    split
    · exact endBlock_inv h hbc
    · exact applyLpClear_inv _ (ocemBreakIf_inv _ (by decide) (h.of_guarded rfl))
  · exact h

/-- The cycles of a delayed return only run down. -/
theorem afterDelay_inv (cycles : Nat) {b : State} (hb : b.Inv) (h : s.Inv) : (afterDelay cycles b s).Inv := by
  have hdelay := hb.delay
  unfold afterDelay
  split
  · exact h
  · split
    · exact h.with_ctl { h.loop with delay := by dsimp only; omega }
    · dsimp only
      split
      · exact returnTo_inv _ (h.with_ctl { h.loop with delay := Nat.zero_le _ })
      · refine ocemBreakIf_inv _ (by decide) (traceTwo_inv _ _ (returnTo_inv _ ?_))
        exact h.with_ctl { h.loop with delay := Nat.zero_le _ }

theorem afterData_inv (b : State) (h : s.Inv) : (afterData b s).Inv := by
  unfold afterData
  split <;> exact h.of_guarded rfl

theorem afterTrapRet_inv (b : State) (h : s.Inv) : (afterTrapRet b s).Inv := by
  unfold afterTrapRet
  split <;> exact h.of_guarded rfl

/-- The count of fetches stops at three. -/
theorem afterTiming_fetches (i : Instr) (a : Word) (b t : State) : (afterTiming i a b t).fetches ≤ 3 :=
  Nat.min_le_left 3 _

theorem afterInstr_inv (i : Instr) (a : Word) {b : State} (hb : b.Inv) (h : s.Inv) : (afterInstr i a b s).Inv := by
  have hr := afterRepeat_inv a b (ocemJump_inv (instrInfo i) a b h)
  unfold afterInstr
  dsimp only
  generalize afterRepeat a b (ocemJump (instrInfo i) a b s) = r at hr ⊢
  have ht : (if r.2 then r.1 else afterBlock (a + BitVec.ofNat 16 (instrInfo i).words) r.1).Inv := by
    split
    · exact hr
    · exact afterBlock_inv _ hr
  have hu := afterTrapRet_inv b (afterData_inv b (afterDelay_inv (cyclesOf (instrInfo i) b) hb ht))
  exact { hu with fetches := afterTiming_fetches i a b _ }

/-! ## The step -/

theorem runInstr_inv (i : Instr) (h : s.Inv) : Ensures (runInstr i s) State.Inv := by
  unfold runInstr
  split
  · exact ensures_refused
  · exact ensures_andThen (exec_inv i (h.of_guarded rfl)) fun _ ht => ensures_next.2 (afterInstr_inv i _ h ht)

theorem fetchRun_inv (h : s.Inv) : Ensures (fetchRun s) State.Inv := by
  have ht := ocemFetch_inv s.pc h
  unfold fetchRun
  dsimp only
  split
  · exact takeBi_inv ht
  · exact ensures_andThen (fetchInstr_inv _ ht) fun q hq => runInstr_inv q.1 hq

theorem coreStep_inv (h : s.Inv) : Ensures (coreStep s) State.Inv := by
  unfold coreStep
  split
  · exact takeBi_inv h
  · split
    · exact takeInterrupt_inv _ h
    · exact fetchRun_inv h

/-- Settles O8: every part of a step keeps the invariant, the agents' as the core's. -/
theorem stepKeepsInv : Obligations.StepKeepsInv := fun _ t h ht =>
  ensures_andThen (agentStep_inv h) (fun _ hu => coreStep_inv hu) t ht

/-- Settles O7: nothing runs, the memories and FIFOs are empty and the trace buffer has its sixteen unused stages. -/
theorem resetInv : Obligations.ResetInv :=
  inv_iff.2 ⟨⟨rfl, nofun⟩, ⟨rfl, nofun⟩, loopInv_reset, ⟨rfl, rfl⟩, codecInv_reset, Nat.zero_le _⟩

end Sys2Proof.Machine
end

section
/-! Status registers, icr, and the values after reset. -/

namespace Sys2Proof.Machine

/-- Settles O6: the reset values, each read from `State.reset`. -/
theorem resetValues : Obligations.ResetValues := by
  refine ⟨rfl, ?_, rfl, ?_, ?_, rfl, rfl, rfl, rfl, rfl, rfl, rfl, rfl, rfl, rfl, rfl, rfl⟩ <;> decide

/-! ## Status registers -/

section
variable (s : State) (v : Word)

/-- The bits of the three images (R36, R49, R54), from the lowest field up. -/
theorem getLsbD_st0Image {i : Nat} (hi : i < 16) : (st0Image s).getLsbD i =
    if i = 0 then s.md.sat else if i = 1 then s.md.ie else if i = 2 then s.md.im0 else if i = 3 then s.md.im1
    else if i = 4 then s.fl.r else if i = 5 then s.fl.l else if i = 6 then s.fl.e else if i = 7 then s.fl.c
    else if i = 8 then s.fl.v else if i = 9 then s.fl.n else if i = 10 then s.fl.m else if i = 11 then s.fl.z
    else s.regs.a0.getLsbD (i + 20) := by
  simp only [st0Image, BitVec.getLsbD_append]
  interval_cases i <;> simp

theorem getLsbD_st1Image {i : Nat} (hi : i < 16) : (st1Image s).getLsbD i =
    if i < 8 then s.md.page.getLsbD i else if i < 10 then false else if i < 12 then s.md.ps.getLsbD (i - 10)
    else s.regs.a1.getLsbD (i + 20) := by
  simp only [st1Image, BitVec.getLsbD_append]
  interval_cases i <;> simp

theorem getLsbD_st2Image {i : Nat} (hi : i < 16) : (st2Image s).getLsbD i =
    if i < 6 then s.md.mEn.getLsbD i else if i = 6 then s.md.im2 else if i = 7 then s.md.s
    else if i = 8 then s.md.ou0 else if i = 9 then s.md.ou1 else if i = 10 then s.iuser0
    else if i = 11 then s.iuser1 else if i = 12 then false else if i = 13 then false
    else if i = 14 then int0Line s else int1Line s := by
  simp only [st2Image, st2Low, BitVec.getLsbD_append]
  interval_cases i <;> simp [int2Line]

theorem st0Image_writeSt0 : st0Image (writeSt0 v s) = v := by
  apply BitVec.eq_of_getLsbD_eq
  intro i hi
  rw [getLsbD_st0Image _ hi, writeSt0, BitVec.getLsbD_append]
  interval_cases i <;> simp

theorem st1Image_writeSt1 : st1Image (writeSt1 v s) = v &&& 0xFCFF#16 := by
  apply BitVec.eq_of_getLsbD_eq
  intro i hi
  rw [getLsbD_st1Image _ hi, writeSt1, BitVec.getLsbD_append]
  interval_cases i <;> simp

theorem st2Image_writeSt2 : st2Image (writeSt2 v s) &&& 0x03FF#16 = v &&& 0x03FF#16 := by
  apply BitVec.eq_of_getLsbD_eq
  intro i hi
  rw [BitVec.getLsbD_and, BitVec.getLsbD_and, getLsbD_st2Image _ hi]
  interval_cases i <;> simp [writeSt2, writeSt2Low]

/-- The top four bits of st0 and st1 are the extensions of a0 and a1. -/
theorem st0Image_extension : (st0Image s).extractLsb' 12 4 = s.regs.a0.extractLsb' 32 4 := by
  apply BitVec.eq_of_getLsbD_eq
  intro i hi
  rw [BitVec.getLsbD_extractLsb', BitVec.getLsbD_extractLsb', getLsbD_st0Image _ (by omega)]
  interval_cases i <;> simp

theorem st1Image_extension : (st1Image s).extractLsb' 12 4 = s.regs.a1.extractLsb' 32 4 := by
  apply BitVec.eq_of_getLsbD_eq
  intro i hi
  rw [BitVec.getLsbD_extractLsb', BitVec.getLsbD_extractLsb', getLsbD_st1Image _ (by omega)]
  interval_cases i <;> simp

/-- The extension of an accumulator, as a number, when a word holds it in its top four bits. -/
theorem toNat_div_of_extension {w : Word} {a : Acc36} (h : w.extractLsb' 12 4 = a.extractLsb' 32 4) :
    w.toNat / 2 ^ 12 = a.toNat / 2 ^ 32 := by
  have e := congrArg BitVec.toNat h
  rw [BitVec.extractLsb'_toNat, BitVec.extractLsb'_toNat, Nat.shiftRight_eq_div_pow, Nat.shiftRight_eq_div_pow] at e
  have := w.isLt
  have := a.isLt
  omega

end

/-- Settles O14, bit by bit of the three images. -/
theorem statusRegisters : Obligations.StatusRegisters := by
  intro v s
  have hst2 := fun {i} => getLsbD_st2Image (writeSt2 v s) (i := i)
  refine ⟨st0Image_writeSt0 s v, st1Image_writeSt1 s v,
    ⟨st2Image_writeSt2 s v, hst2 (by decide), hst2 (by decide), hst2 (by decide), ?_, hst2 (by decide), hst2 (by decide)⟩,
    toNat_div_of_extension (st0Image_extension s), toNat_div_of_extension (st1Image_extension s)⟩
  have hline : int0Line (writeSt2 v s) = true ↔ s.dpmb.ois.toNat ≠ 0 := by
    simp [int0Line, writeSt2, writeSt2Low, ← BitVec.toNat_inj]
  exact (Bool.eq_iff_iff.1 (hst2 (by decide))).trans hline

/-! ## icr -/

/-- The distance from `b` on to `a`, in the numbers the statement uses. -/
theorem toNat_sub_mod (a b : Word) : (a - b).toNat = (a.toNat + 65536 - b.toNat) % 65536 := by
  rw [BitVec.toNat_sub]
  have := b.isLt
  omega

/-- What `writeIcr` does, by bit 4 of the word: the enables always; all levels left at once, or the clear put off. -/
theorem writeIcr_effect (v addr : Word) (t : State) :
    (writeIcr v addr t).md = { t.md with
        nmic := v.getLsbD 0, ic0 := v.getLsbD 1, ic1 := v.getLsbD 2, ic2 := v.getLsbD 3 } ∧
      (v.getLsbD 4 = false → (writeIcr v addr t).ctl = t.ctl) ∧
      (v.getLsbD 4 = true →
        (if t.ctl.lp = true ∧ (t.ctl.bkEnd.toNat + 65536 - addr.toNat) % 65536 ≤ 2 then
          (writeIcr v addr t).ctl = { t.ctl with lpClear := some t.ctl.bc }
        else (writeIcr v addr t).ctl = { t.ctl with lp := false, bc := 0, bkSaved := [], lpClear := none })) ∧
      writeIcr v addr t = { t with md := (writeIcr v addr t).md, ctl := (writeIcr v addr t).ctl } := by
  rw [← toNat_sub_mod]
  unfold writeIcr
  cases hb : v.getLsbD 4
  · exact ⟨rfl, fun _ => rfl, nofun, rfl⟩
  · by_cases hlate : t.ctl.lp = true ∧ (t.ctl.bkEnd - addr).toNat ≤ 2
    · rw [if_pos rfl, if_pos (by simpa using hlate), if_pos hlate]
      exact ⟨rfl, nofun, fun _ => rfl, rfl⟩
    · rw [if_pos rfl, if_neg (by simpa using hlate), if_neg hlate]
      exact ⟨rfl, nofun, fun _ => rfl, rfl⟩

/-- Settles O42: both forms are `writeIcr` from the address before the program counter. -/
theorem icrWrites : Obligations.IcrWrites := by
  intro s
  refine ⟨fun r hwf => ?_, fun v => ⟨_, rfl, ?_⟩⟩
  · have hr : rule16 r = none := Option.isNone_iff_eq_none.1 hwf
    exact ⟨_, checkOperand_eq_next.2 ⟨hr, rfl⟩, writeIcr_effect _ _ _⟩
  · rw [BitVec.ofNat_toNat]
    exact writeIcr_effect _ _ _

end Sys2Proof.Machine
end

section
/-! Addition, subtraction and comparison: one lemma for the operation, one for each operand form, and the statements put
together from them. -/

namespace Sys2Proof.Machine

/-! ## The 36-bit operands of the statements -/

theorem sext36_eq_ofInt (v : Word) : sext36 v = BitVec.ofInt 36 v.toInt := rfl

theorem zext36_eq_ofNat (v : Word) : zext36 v = BitVec.ofNat 36 v.toNat := (BitVec.ofNat_toNat ..).symm

theorem zextShort_eq_ofNat (v : BitVec 8) : zextShort v = BitVec.ofNat 36 v.toNat := (BitVec.ofNat_toNat ..).symm

theorem highOperand_eq_ofInt (v : Word) : highOperand v = BitVec.ofInt 36 (v.toInt * 65536) := by
  rw [highOperand, shiftLeft_eq_ofInt, sext36, BitVec.toInt_signExtend_of_le (by decide)]
  rfl

/-! ## Operands: the state an operand form leaves, and the address it reads -/

/-- What an instruction makes of an operand does not depend on where the operand came from: `P` holds of `g v t` for
every state `t` that reading the operand can leave. -/
def OnOperand (s : State) (P : List Place → Word → State → State → Prop) (g : Word → State → State) : Prop :=
  ∀ ch v t, Operand ch s t → (∀ a, Place.acc a ∉ ch) → P ch v t (g v t)

section
variable {s : State} {P : List Place → Word → State → State → Prop} {g : Word → State → State}

theorem directForm_of {i : BitVec 8 → Instr} (hg : OnOperand s P g)
    (he : ∀ d, exec (i d) s = withDirect d s fun v t => .next (g v t)) : DirectForm i s P := by
  intro d v t hr
  exact ⟨g v t, by rw [he, withDirect, hr]; rfl, hg [] v t (operand_read hr) (by simp)⟩

theorem longDirectForm_of {i : Word → Instr} (hg : OnOperand s P g)
    (he : ∀ a, exec (i a) s = withLongDirect a s fun v t => .next (g v t)) : LongDirectForm i s P := by
  intro a v t hr
  exact ⟨g v t, by rw [he, withLongDirect, hr]; rfl, hg [] v t (operand_read hr) (by simp)⟩

theorem rbShortAddr_eq (o : BitVec 7) (s : State) : rbShortAddr o s = BitVec.ofInt 16 (s.regs.rb.toInt + o.toInt) := by
  rw [BitVec.ofInt_add, BitVec.ofInt_toInt]
  rfl

theorem rbLongAddr_eq (o : Word) (s : State) : rbLongAddr o s = BitVec.ofNat 16 (s.regs.rb.toNat + o.toNat) := by
  rw [BitVec.ofNat_add, BitVec.ofNat_toNat, BitVec.ofNat_toNat, BitVec.setWidth_eq, BitVec.setWidth_eq]
  rfl

theorem rbShortForm_of {i : BitVec 7 → Instr} (hg : OnOperand s P g)
    (he : ∀ o, exec (i o) s = withRbShort o s fun v t => .next (g v t)) : RbShortForm i s P := by
  intro o v t hr
  rw [← rbShortAddr_eq] at hr
  exact ⟨g v t, by rw [he, withRbShort, hr]; rfl, hg [] v t (operand_read hr) (by simp)⟩

theorem rbLongForm_of {i : Word → Instr} (hg : OnOperand s P g)
    (he : ∀ o, exec (i o) s = withRbLong o s fun v t => .next (g v t)) : RbLongForm i s P := by
  intro o v t hr
  rw [← rbLongAddr_eq] at hr
  exact ⟨g v t, by rw [he, withRbLong, hr]; rfl, hg [] v t (operand_read hr) (by simp)⟩

/-- The operation must leave the address register that the operand form has stepped. -/
theorem indForm_of {i : RN → PostMod → Instr} (hg : OnOperand s P g) (hn : ∀ n v t, getRN n (g v t) = getRN n t)
    (he : ∀ n m, exec (i n m) s = withInd n m s fun v t => .next (g v t)) : IndForm i s P := by
  intro n m v t hr
  obtain ⟨hop, hstep, -⟩ := operand_ind hr
  exact ⟨g v t, by rw [he, withInd, ea, hr]; rfl, hg _ v t hop (by simp), (hn n v t).trans hstep⟩

theorem regForm_of {i : Reg → Instr} {o : Reg → Option OperandRule} (hg : OnOperand s P g)
    (ho : ∀ r, operandRule (i r) = o r)
    (he : ∀ r, exec (i r) s = checkOperand (o r) (withReg r s fun v t => .next (g v t))) : RegForm i s P := by
  intro r hwf
  have hr : o r = none := by rw [← ho]; exact Option.isNone_iff_eq_none.1 hwf
  exact ⟨_, by rw [he, hr]; rfl, hg [] _ _ (operand_readReg r s) (by simp)⟩

end

/-- The 36-bit reading of a register leaves what a 16-bit one does. -/
theorem operand_readWide (r : Reg) (s : State) : Operand [] s (readWide r s).2 := by
  unfold readWide
  split
  case h_4 => exact operand_readReg r s
  all_goals exact operand_refl s

/-- Reading operands leaves the accumulators. -/
theorem getAcc_of_operand {ch : List Place} {s t : State} (h : Operand ch s t) (hch : ∀ a, Place.acc a ∉ ch) (a : Acc) :
    getAcc a t = getAcc a s :=
  BitVec.eq_of_toNat_eq (h.regs (.acc a) (hch a))

/-! ## The operations -/

section
variable {ch : List Place} {s t : State} {b c : Acc36}

theorem adds_doAdd (a : AccA) (hb : b = c) (h : Operand ch s t) (hch : ∀ a, Place.acc a ∉ ch) :
    Adds (accOfA a) (getAcc (accOfA a) s) c ch s t (doAdd a b t) := by
  subst hb
  unfold doAdd
  rw [getAcc_of_operand h hch]
  refine ⟨?_, ?_, keeps_writeResult h _ _ _⟩
  · rw [getAcc_writeResult, add_eq_ofInt]
  · rw [getAcc_writeResult, writeResult_fl, h.fl]
    exact ArithFlags_setFlagsAdd _ _ _

theorem subs_doSub (a : AccA) (hb : b = c) (h : Operand ch s t) (hch : ∀ a, Place.acc a ∉ ch) :
    Subs (accOfA a) (getAcc (accOfA a) s) c ch s t (doSub a b t) := by
  subst hb
  unfold doSub
  rw [getAcc_of_operand h hch]
  refine ⟨?_, ?_, keeps_writeResult h _ _ _⟩
  · rw [getAcc_writeResult, sub_eq_ofInt]
  · rw [getAcc_writeResult, writeResult_fl, h.fl]
    exact ArithFlags_setFlagsSub _ _ _

theorem compares_doCmp (a : AccA) (hb : b = c) (h : Operand ch s t) (hch : ∀ a, Place.acc a ∉ ch) :
    Compares (getAcc (accOfA a) s) c ch s t (doCmp a b t) := by
  subst hb
  unfold doCmp
  rw [getAcc_of_operand h hch]
  refine ⟨?_, keeps_flags h _⟩
  rw [← sub_eq_ofInt, h.fl]
  exact ArithFlags_setFlagsSub _ _ _

end

section
variable (a : AccA) (s : State) {b c : Word → Acc36}

theorem onOperand_doAdd (hb : ∀ v, b v = c v) :
    OnOperand s (fun ch v t u => Adds (accOfA a) (getAcc (accOfA a) s) (c v) ch s t u) fun v t => doAdd a (b v) t :=
  fun _ v _ h hch => adds_doAdd a (hb v) h hch

theorem onOperand_doSub (hb : ∀ v, b v = c v) :
    OnOperand s (fun ch v t u => Subs (accOfA a) (getAcc (accOfA a) s) (c v) ch s t u) fun v t => doSub a (b v) t :=
  fun _ v _ h hch => subs_doSub a (hb v) h hch

theorem onOperand_doCmp (hb : ∀ v, b v = c v) :
    OnOperand s (fun ch v t u => Compares (getAcc (accOfA a) s) (c v) ch s t u) fun v t => doCmp a (b v) t :=
  fun _ v _ h hch => compares_doCmp a (hb v) h hch

end

theorem getRN_doAdd (a : AccA) (b : Acc36) (n : RN) (t : State) : getRN n (doAdd a b t) = getRN n t :=
  getRN_writeResult ..

theorem getRN_doSub (a : AccA) (b : Acc36) (n : RN) (t : State) : getRN n (doSub a b t) = getRN n t :=
  getRN_writeResult ..

theorem getRN_doCmp (a : AccA) (b : Acc36) (n : RN) (t : State) : getRN n (doCmp a b t) = getRN n t := by
  cases n <;> rfl

/-! ## The statements -/

/-- Settles O19: every form is `doAdd` of its operand. -/
theorem addForms : Obligations.AddForms := by
  intro a s
  have plain := onOperand_doAdd a s sext36_eq_ofInt
  have high := onOperand_doAdd a s highOperand_eq_ofInt
  have low := onOperand_doAdd a s zext36_eq_ofNat
  have hn : ∀ (f : Word → Acc36) n v t, getRN n (doAdd a (f v) t) = getRN n t := fun f n v t => getRN_doAdd a (f v) n t
  refine ⟨directForm_of plain fun _ => rfl, indForm_of plain (hn _) fun _ _ => rfl, longDirectForm_of plain fun _ => rfl,
    rbShortForm_of plain fun _ => rfl, rbLongForm_of plain fun _ => rfl, fun v => ?_, fun v => ?_, fun r hwf => ?_,
    directForm_of high fun _ => rfl, indForm_of high (hn _) fun _ _ => rfl, regForm_of high (fun _ => rfl) fun _ => rfl,
    directForm_of low fun _ => rfl, indForm_of low (hn _) fun _ _ => rfl, regForm_of low (fun _ => rfl) fun _ => rfl⟩
  · exact ⟨_, rfl, plain [] v s (operand_refl s) (by simp)⟩
  · exact ⟨_, rfl, adds_doAdd a (zextShort_eq_ofNat v) (operand_refl s) (by simp)⟩
  · have hr : ruleAlu36 a r = none := Option.isNone_iff_eq_none.1 hwf
    exact ⟨_, checkOperand_eq_next.2 ⟨hr, rfl⟩, adds_doAdd a rfl (operand_readWide r s) (by simp)⟩

/-- Settles O20: every form is `doSub` of its operand. -/
theorem subForms : Obligations.SubForms := by
  intro a s
  have plain := onOperand_doSub a s sext36_eq_ofInt
  have high := onOperand_doSub a s highOperand_eq_ofInt
  have low := onOperand_doSub a s zext36_eq_ofNat
  have hn : ∀ (f : Word → Acc36) n v t, getRN n (doSub a (f v) t) = getRN n t := fun f n v t => getRN_doSub a (f v) n t
  refine ⟨directForm_of plain fun _ => rfl, indForm_of plain (hn _) fun _ _ => rfl, longDirectForm_of plain fun _ => rfl,
    rbShortForm_of plain fun _ => rfl, rbLongForm_of plain fun _ => rfl, fun v => ?_, fun v => ?_, fun r hwf => ?_,
    directForm_of high fun _ => rfl, indForm_of high (hn _) fun _ _ => rfl, regForm_of high (fun _ => rfl) fun _ => rfl,
    directForm_of low fun _ => rfl, indForm_of low (hn _) fun _ _ => rfl, regForm_of low (fun _ => rfl) fun _ => rfl⟩
  · exact ⟨_, rfl, plain [] v s (operand_refl s) (by simp)⟩
  · exact ⟨_, rfl, subs_doSub a (zextShort_eq_ofNat v) (operand_refl s) (by simp)⟩
  · have hr : ruleAlu36 a r = none := Option.isNone_iff_eq_none.1 hwf
    exact ⟨_, checkOperand_eq_next.2 ⟨hr, rfl⟩, subs_doSub a rfl (operand_readWide r s) (by simp)⟩

/-- Settles O21: every form is `doCmp` of its operand. -/
theorem compareForms : Obligations.CompareForms := by
  intro a s
  have plain := onOperand_doCmp a s sext36_eq_ofInt
  have low := onOperand_doCmp a s zext36_eq_ofNat
  have hn : ∀ (f : Word → Acc36) n v t, getRN n (doCmp a (f v) t) = getRN n t := fun f n v t => getRN_doCmp a (f v) n t
  refine ⟨directForm_of plain fun _ => rfl, indForm_of plain (hn _) fun _ _ => rfl, longDirectForm_of plain fun _ => rfl,
    rbShortForm_of plain fun _ => rfl, rbLongForm_of plain fun _ => rfl, fun v => ?_, fun v => ?_, fun r hwf => ?_,
    directForm_of low fun _ => rfl, indForm_of low (hn _) fun _ _ => rfl, regForm_of low (fun _ => rfl) fun _ => rfl⟩
  · exact ⟨_, rfl, plain [] v s (operand_refl s) (by simp)⟩
  · exact ⟨_, rfl, compares_doCmp a (zextShort_eq_ofNat v) (operand_refl s) (by simp)⟩
  · have hr : ruleAlu36 a r = none := Option.isNone_iff_eq_none.1 hwf
    exact ⟨_, checkOperand_eq_next.2 ⟨hr, rfl⟩, compares_doCmp a rfl (operand_readWide r s) (by simp)⟩

end Sys2Proof.Machine
end

section
/-! Data memory: the regions of the data space, and what a read and a write do in each of them. -/

namespace Sys2Proof.Machine

/-! ## Accesses the emulation module does not watch -/

/-- The emulation module watches no data access made in `s`: no breakpoint is enabled, or the core is in the TRAP/BI
routine (R503). -/
def Unwatched (s : State) : Prop := s.ocem.mode0 = 0 ∨ s.ctl.inTrap = true

section
variable {a v : Word} {s : State}

theorem ocemWatch_unwatched (h : Unwatched s) (r : Bool) (w : Option Word) (t : State) : ocemWatch r a w s t = t := by
  rcases h with h | h <;> simp [ocemWatch, h]

theorem dataRead_unwatched (h : Unwatched s) : dataRead a s = dataReadRaw a s := by
  unfold dataRead
  cases dataReadRaw a s <;> simp [ocemWatch_unwatched h]

theorem dataWrite_unwatched (h : Unwatched s) : dataWrite a v s = dataWriteRaw a v s := by
  unfold dataWrite
  cases dataWriteRaw a v s <;> simp [ocemWatch_unwatched h]

/-! ## The access in each region -/

theorem dataRead_unmapped (h : dataRegion a = .unmapped) : dataRead a s = .fault .unmappedData := by
  simp [dataRead, dataReadRaw, h, Config.unmappedData]

theorem dataWrite_unmapped (h : dataRegion a = .unmapped) : dataWrite a v s = .fault .unmappedData := by
  simp [dataWrite, dataWriteRaw, h, Config.unmappedData]

theorem reads_ram (hu : Unwatched s) (h : dataRegion a = .ram) : Reads a s (memWord s.data a) s := by
  simp [Reads, dataRead_unwatched hu, dataReadRaw, h]

theorem reads_mailbox (hu : Unwatched s) (h : dataRegion a = .mailbox)
    (ho : oakOwns s.dpmb (a.extractLsb' 0 8) = true) :
    Reads a s (memWord s.data (mailboxAddr (a.extractLsb' 0 8))) s := by
  simp [Reads, dataRead_unwatched hu, dataReadRaw, h, ho]

theorem dataRead_mailbox_ignored (hu : Unwatched s) (h : dataRegion a = .mailbox)
    (ho : oakOwns s.dpmb (a.extractLsb' 0 8) = false) : dataRead a s = .next (freeRead s) := by
  simp [dataRead_unwatched hu, dataReadRaw, h, ho]

theorem reads_semaphore (hu : Unwatched s) (h : dataRegion a = .semaphore) :
    Reads a s (semRead s.dpmb (a.extractLsb' 0 3).toNat) s := by
  simp [Reads, dataRead_unwatched hu, dataReadRaw, h]

theorem dataWriteRaw_ram (h : dataRegion a = .ram) :
    dataWriteRaw a v s = .next { s with data := memSetWord s.data a v } := by
  simp [dataWriteRaw, h]

theorem dataWriteRaw_mailbox (h : dataRegion a = .mailbox) : dataWriteRaw a v s = .next
    (if oakOwns s.dpmb (a.extractLsb' 0 8) then { s with data := memSetWord s.data (cellOf a) v } else s) := by
  simp only [dataWriteRaw, cellOf, h, if_true]
  split <;> rfl

theorem dataWriteRaw_semaphore (h : dataRegion a = .semaphore) : dataWriteRaw a v s =
    .next { s with dpmb := oakSemWrite (a.extractLsb' 0 3).toNat (v.getLsbD 0) s.dpmb } := by
  simp [dataWriteRaw, h]

theorem dataWriteRaw_codec (h : dataRegion a = .codec) :
    dataWriteRaw a v s = .next { s with codec := codecWrite a v s.codec } := by
  simp [dataWriteRaw, h]

theorem dataWriteRaw_ocem (h : dataRegion a = .ocem) :
    dataWriteRaw a v s = .next { s with ocem := ocemWrite a v s.ocem } := by
  simp [dataWriteRaw, h]

end

/-- Settles O9: an unwatched write and read in RAM are those of the memory list. -/
theorem ramWriteRead : Obligations.RamWriteRead := by
  intro a v s hwf hram hoff
  have hread := reads_ram (s := { s with data := memSetWord s.data a v }) (.inl hoff) hram
  rw [memWord_setWord_self a v hwf] at hread
  exact ⟨_, (dataWrite_unwatched (.inl hoff)).trans (dataWriteRaw_ram hram), hread, rfl,
    fun k h0 h1 => memByte_setWord_ne _ _ _ h0 h1⟩

/-! ## The regions as ranges of addresses -/

section
variable (a : Word)

/-- `dataRegion` with its tests written as bounds. -/
theorem dataRegion_eq : dataRegion a =
    if a.toNat ≤ 0x07FF ∨ (0x4000 ≤ a.toNat ∧ a.toNat ≤ 0x7FFF) ∨ 0xF800 ≤ a.toNat then .ram
    else if 0xE000 ≤ a.toNat ∧ a.toNat ≤ 0xE7FF then .mailbox
    else if 0xE800 ≤ a.toNat ∧ a.toNat ≤ 0xEBFF then .semaphore
    else if 0xEC00 ≤ a.toNat ∧ a.toNat ≤ 0xEC0A ∧ a.toNat % 2 = 0 then .codec
    else if 0xF7F0 ≤ a.toNat ∧ a.toNat ≤ 0xF7FF ∧ ¬(0xF7F4 ≤ a.toNat ∧ a.toNat ≤ 0xF7F6) ∧ a.toNat ≠ 0xF7FC then .ocem
    else .unmapped := by
  unfold dataRegion
  simp only [Bool.or_eq_true, Bool.and_eq_true, decide_eq_true_eq, List.contains_eq_mem, List.mem_cons,
    List.not_mem_nil, or_false]
  congr 1
  · exact propext (by omega)
  congr 1
  · exact propext (by omega)
  congr 1
  · exact propext (by omega)
  congr 1
  · exact propext (by omega)
  congr 1
  · exact propext (by omega)

theorem dataRegion_ram_iff : dataRegion a = .ram ↔
    a.toNat ≤ 0x07FF ∨ (0x4000 ≤ a.toNat ∧ a.toNat ≤ 0x7FFF) ∨ 0xF800 ≤ a.toNat := by
  rw [dataRegion_eq]
  split_ifs <;> (simp only [true_iff, false_iff]; omega)

theorem dataRegion_mailbox_iff : dataRegion a = .mailbox ↔ 0xE000 ≤ a.toNat ∧ a.toNat ≤ 0xE7FF := by
  rw [dataRegion_eq]
  split_ifs <;> (simp only [true_iff, false_iff]; omega)

theorem dataRegion_semaphore_iff : dataRegion a = .semaphore ↔ 0xE800 ≤ a.toNat ∧ a.toNat ≤ 0xEBFF := by
  rw [dataRegion_eq]
  split_ifs <;> (simp only [true_iff, false_iff]; omega)

theorem dataRegion_codec_iff : dataRegion a = .codec ↔ 0xEC00 ≤ a.toNat ∧ a.toNat ≤ 0xEC0A ∧ a.toNat % 2 = 0 := by
  rw [dataRegion_eq]
  split_ifs <;> (simp only [true_iff, false_iff]; omega)

theorem dataRegion_ocem_iff : dataRegion a = .ocem ↔
    0xF7F0 ≤ a.toNat ∧ a.toNat ≤ 0xF7FF ∧ ¬(0xF7F4 ≤ a.toNat ∧ a.toNat ≤ 0xF7F6) ∧ a.toNat ≠ 0xF7FC := by
  rw [dataRegion_eq]
  split_ifs <;> (simp only [true_iff, false_iff]; omega)

end

/-! ## Semaphores -/

/-- The low three bits of the address choose the semaphore. -/
theorem semaphoreIndex (a : Word) : (a.extractLsb' 0 3).toNat = a.toNat % 8 := by
  rw [BitVec.extractLsb'_toNat, Nat.shiftRight_zero]

/-- The bits of a semaphore word: Sem, AIS, OIS, and zeros (R525). -/
theorem semRead_bits (d : Dpmb) (k : Nat) : (semRead d k).getLsbD 0 = d.sem.getLsbD k ∧
    (semRead d k).getLsbD 1 = d.ais.getLsbD k ∧ (semRead d k).getLsbD 2 = d.ois.getLsbD k ∧ (semRead d k).toNat < 8 := by
  unfold semRead
  cases d.ois.getLsbD k <;> cases d.ais.getLsbD k <;> cases d.sem.getLsbD k <;> decide

/-- What an Oak semaphore operation does, bit by bit (R524, Table 9). -/
theorem oakSemWrite_bits (d : Dpmb) {k : Nat} (j : Nat) (set : Bool) (hk : k < 8) :
    (oakSemWrite k set d).sem.getLsbD j = (if j = k then set else d.sem.getLsbD j) ∧
      (oakSemWrite k set d).ois.getLsbD j = (if j = k then false else d.ois.getLsbD j) ∧
      (oakSemWrite k set d).ais.getLsbD j =
        (if j = k then d.ais.getLsbD k || ((d.ato.getLsbD k != set) && d.aie.getLsbD k) else d.ais.getLsbD j) := by
  unfold oakSemWrite
  refine ⟨getLsbD_setBit8 _ _ _ hk, getLsbD_setBit8 _ _ _ hk, ?_⟩
  dsimp only
  cases (d.ato.getLsbD k != set) && d.aie.getLsbD k
  · rw [if_neg (by simp), Bool.or_false]
    split
    · subst_vars; rfl
    · rfl
  · rw [if_pos rfl, getLsbD_setBit8 _ _ _ hk, Bool.or_true]

/-- Settles O10: the regions as ranges, and the read in each of them. -/
theorem dataReads : Obligations.DataReads := by
  refine ⟨by decide, fun a s => ⟨dataRegion_ram_iff a, dataRegion_mailbox_iff a, dataRegion_semaphore_iff a,
    dataRegion_codec_iff a, dataRegion_ocem_iff a, dataRead_unmapped, fun hm => ?_, fun hoff => ?_⟩⟩
  · obtain ⟨v, t, hr⟩ := dataRead_mapped a s hm
    have h := operand_read hr
    exact ⟨_, hr, h.regs, h.pc, h.fl, h.system, h.memory⟩
  · have hu : Unwatched s := .inl hoff
    refine ⟨reads_ram hu, reads_mailbox hu, fun h ho => ⟨_, dataRead_mailbox_ignored hu h ho, rfl⟩,
      fun h => ⟨_, reads_semaphore hu h, rfl, ?_⟩⟩
    rw [semaphoreIndex]
    exact semRead_bits _ _

/-! ## The registers of the codec -/

/-- A push on a transmit FIFO that is not full. -/
theorem codecTxPush_room (e : BitVec 32) {c : Codec} (h : c.txFifo.length < Config.codecFifoDepth) :
    codecTxPush e c = { c with
      txFifo := c.txFifo ++ [e]
      sts := if c.txFifo.length + 1 = Config.codecFifoDepth then c.sts ||| 2#7 else c.sts } := by
  unfold codecTxPush codecFlagIf
  by_cases hf : c.txFifo.length + 1 = Config.codecFifoDepth
  · rw [if_pos (by simp [hf]), if_pos hf]
    rfl
  · rw [if_neg (by simp; omega), if_neg hf]

theorem toNat_append_eq_add {m n : Nat} (x : BitVec m) (y : BitVec n) : (x ++ y).toNat = x.toNat * 2 ^ n + y.toNat := by
  rw [BitVec.toNat_append, ← Nat.shiftLeft_add_eq_or_of_lt y.isLt, Nat.shiftLeft_eq]

theorem codecJoin_eq_ofNat (h v : Word) : codecJoin h v = BitVec.ofNat 32 (h.toNat * 65536 + v.toNat) := by
  apply BitVec.eq_of_toNat_eq
  have := h.isLt
  have := v.isLt
  rw [codecJoin, Config.codecHighFirst, if_pos rfl, toNat_append_eq_add, BitVec.toNat_ofNat]
  omega

/-! A write of CODTX in its four cases (R536, R538). -/

section
variable {v : Word} {c : Codec}

theorem codecTxWrite_full (h : Config.codecFifoDepth ≤ c.txFifo.length) :
    codecTxWrite v c = { c with sts := c.sts ||| 0x20#7 } := by
  rw [codecTxWrite, if_pos h]
  rfl

theorem codecTxWrite_word (h : c.txFifo.length < Config.codecFifoDepth) (hdws : c.sck.getLsbD 11 = false) :
    codecTxWrite v c = codecTxPush (BitVec.ofNat 32 v.toNat) c := by
  rw [codecTxWrite, if_neg (by omega), codecWide, hdws, BitVec.ofNat_toNat, if_neg (by decide)]

theorem codecTxWrite_firstHalf (h : c.txFifo.length < Config.codecFifoDepth) (hdws : c.sck.getLsbD 11 = true)
    (hhalf : c.txHalf = none) : codecTxWrite v c = { c with txHalf := some v } := by
  rw [codecTxWrite, if_neg (by omega), codecWide, hdws, if_pos rfl, hhalf]

theorem codecTxWrite_secondHalf {w : Word} (h : c.txFifo.length < Config.codecFifoDepth)
    (hdws : c.sck.getLsbD 11 = true) (hhalf : c.txHalf = some w) : codecTxWrite v c =
      codecTxPush (BitVec.ofNat 32 (w.toNat * 65536 + v.toNat)) { c with txHalf := none } := by
  rw [codecTxWrite, if_neg (by omega), codecWide, hdws, if_pos rfl, hhalf, ← codecJoin_eq_ofNat]

end

section
variable {a v : Word} {s : State}

theorem dataWrite_codec {c : Codec} (hu : Unwatched s) (h : dataRegion a = .codec) (hc : codecWrite a v s.codec = c) :
    dataWrite a v s = .next { s with codec := c } := by
  rw [dataWrite_unwatched hu, dataWriteRaw_codec h, hc]

theorem dataWrite_ocem {o : Ocem} (hu : Unwatched s) (h : dataRegion a = .ocem) (ho : ocemWrite a v s.ocem = o) :
    dataWrite a v s = .next { s with ocem := o } := by
  rw [dataWrite_unwatched hu, dataWriteRaw_ocem h, ho]

/-- A write at a device stores no byte of data memory. -/
theorem dataWrite_device_data {t : State} (h : dataWrite a v s = .next t) (hram : dataRegion a ≠ .ram)
    (hmail : dataRegion a ≠ .mailbox) : t.data = s.data := by
  obtain ⟨u, hw, ht⟩ := andThen_eq_next.1 h
  obtain rfl := Host.Outcome.next.inj ht
  rw [ocemWatch_frame]
  cases hr : dataRegion a with
  | ram => exact absurd hr hram
  | mailbox => exact absurd hr hmail
  | semaphore => rw [dataWriteRaw_semaphore hr] at hw; cases hw; rfl
  | codec => rw [dataWriteRaw_codec hr] at hw; cases hw; rfl
  | ocem => rw [dataWriteRaw_ocem hr] at hw; cases hw; rfl
  | unmapped => rw [dataWrite_unmapped hr] at h; cases h

/-- A data write keeps the registers, the flags and the core's system state. -/
theorem dataWrite_keeps {t : State} (h : dataWrite a v s = .next t) :
    SameRegsBut [] s t ∧ t.pc = s.pc ∧ t.fl = s.fl ∧ SameCore s t ∧ t.prog = s.prog := by
  rw [(dataWrite_frame h).1]
  exact ⟨fun q _ => by cases q <;> rfl, rfl, rfl, ⟨rfl, rfl, rfl, rfl, rfl, rfl, rfl, rfl⟩, rfl⟩

end

/-- Settles O12: the frame of every data write, and the write in each region. -/
theorem dataWrites : Obligations.DataWrites := by
  intro a v s
  refine ⟨dataWrite_unmapped, fun hm => ?_, fun hwf hram => ?_, fun hu => ⟨fun hwf hmail => ?_, fun hsem => ?_, ?_, ?_, ?_⟩⟩
  · obtain ⟨t, ht⟩ := dataWrite_mapped a v s hm
    obtain ⟨hregs, hpc, hfl, hcore, hprog⟩ := dataWrite_keeps ht
    exact ⟨t, ht, hregs, hpc, hfl, hcore, fun _ => dataWrite_byte ht, fun _ => by rw [hprog], dataWrite_device_data ht⟩
  · obtain ⟨t, ht⟩ := dataWrite_mapped a v s (by rw [hram]; decide)
    refine ⟨t, ht, dataWrite_ram ht hram hwf, fun hoff => ?_⟩
    rw [dataWrite_unwatched (.inl hoff), dataWriteRaw_ram hram] at ht
    cases ht
    rfl
  · refine ⟨_, (dataWrite_unwatched hu).trans (dataWriteRaw_mailbox hmail), ?_⟩
    split
    · exact ⟨rfl, memWord_setWord_self _ v hwf⟩
    · exact ⟨rfl, rfl⟩
  · refine ⟨_, (dataWrite_unwatched hu).trans (dataWriteRaw_semaphore hsem), rfl, ?_⟩
    rw [semaphoreIndex]
    have hbit := fun j => oakSemWrite_bits s.dpmb j (v.getLsbD 0) (Nat.mod_lt a.toNat (by decide : 0 < 8))
    obtain ⟨hsem, hois, hais⟩ := hbit (a.toNat % 8)
    rw [if_pos rfl] at hsem hois hais
    refine ⟨hsem, hois, ?_, fun j hj => ?_⟩
    · simp only [hais, Bool.or_eq_true, Bool.and_eq_true]
      cases s.dpmb.ato.getLsbD (a.toNat % 8) <;> cases v.getLsbD 0 <;> simp
    · simpa only [if_neg hj] using hbit j
  · simp only [List.forall_mem_cons]
    exact ⟨dataWrite_codec hu (by decide) rfl, dataWrite_codec hu (by decide) rfl, dataWrite_codec hu (by decide) rfl,
      dataWrite_codec hu (by decide) rfl, dataWrite_codec hu (by decide) rfl, nofun⟩
  · have hcodtx : ∀ c, codecTxWrite v s.codec = c → dataWrite 0xEC08 v s = .next { s with codec := c } := fun _ hc =>
      dataWrite_codec hu (by decide) hc
    exact ⟨fun hfull => hcodtx _ (codecTxWrite_full hfull), fun hroom =>
      ⟨fun hdws => hcodtx _ ((codecTxWrite_word hroom hdws).trans (codecTxPush_room _ hroom)),
        fun hdws hhalf => hcodtx _ (codecTxWrite_firstHalf hroom hdws hhalf),
        fun h hdws hhalf => hcodtx _ ((codecTxWrite_secondHalf hroom hdws hhalf).trans (codecTxPush_room _ hroom))⟩⟩
  · simp only [List.forall_mem_cons]
    have ho : ∀ {b o}, dataRegion b = .ocem → ocemWrite b v s.ocem = o → dataWrite b v s = .next { s with ocem := o } :=
      dataWrite_ocem hu
    rw [BitVec.ofNat_toNat]
    exact ⟨ho (by decide) rfl, ho (by decide) rfl, ho (by decide) rfl, ho (by decide) rfl, ho (by decide) rfl,
      ho (by decide) rfl, ho (by decide) rfl, ho (by decide) rfl, ho (by decide) rfl, ho (by decide) rfl,
      ho (by decide) rfl, ho (by decide) rfl, nofun⟩

end Sys2Proof.Machine
end

section
/-! Post-modification of an address register: the linear and the modulo step, and the width of the modulo modifier. -/

namespace Sys2Proof.Machine

/-! ## The fields that control the modification -/

theorem cfgOf_eq (n : RN) (s : State) : cfgOf n s = if n = .r4 ∨ n = .r5 then s.regs.cfgj else s.regs.cfgi := by
  cases n <;> rfl

/-- MODx is the upper nine bits of the configuration register. -/
theorem modField_eq (cfg : Word) : (cfg.extractLsb' 7 9).toNat = cfg.toNat / 128 := by
  rw [BitVec.extractLsb'_toNat, Nat.shiftRight_eq_div_pow]
  have := cfg.isLt
  omega

/-- A step has seven bits and a sign. -/
theorem modAmount_natAbs_le (m : PostMod) (cfg : Word) : (modAmount m cfg).natAbs ≤ 64 := by
  cases m with
  | step =>
    have h1 := BitVec.toInt_lt (x := cfg.extractLsb' 0 7)
    have h2 := BitVec.le_toInt (x := cfg.extractLsb' 0 7)
    simp only [modAmount]
    omega
  | keep | inc | dec => simp [modAmount]

/-! ## What `postMod` does in each mode -/

section
variable (n : RN) {m : PostMod} (w : Word) {s : State}

theorem keeps_setRN : Keeps [.rn n] s s (setRN n w s) :=
  have h := operand_setRN n w s.freeCount s
  ⟨h.regs, h.pc, h.system, h.memory, by simp [SameDevices]⟩

theorem postMod_linear {d : Bool} (hm : m ≠ .keep) (hoff : moduloOn n s = false ∨ d = true) :
    postMod n m d s = setRN n (BitVec.ofInt 16 ((getRN n s).toNat + modAmount m (cfgOf n s))) s := by
  have hoff : ¬(moduloOn n s && !d) = true := by rcases hoff with h | h <;> simp [h]
  rw [postMod, if_neg (by simpa using hm), if_neg hoff, BitVec.ofInt_add, BitVec.ofInt_natCast, BitVec.ofNat_toNat,
    BitVec.setWidth_eq]

theorem postMod_modulo_zero (hon : moduloOn n s = true) (hmod : (cfgOf n s).toNat / 128 = 0) :
    postMod n m false s = s := by
  rw [postMod, modField_eq, hon, hmod]
  split <;> rfl

theorem postMod_modulo (hm : m ≠ .keep) (hon : moduloOn n s = true) (hmod : (cfgOf n s).toNat / 128 ≠ 0)
    (hp : moduloProper (getRN n s) (modAmount m (cfgOf n s)) ((cfgOf n s).toNat / 128) = true) :
    postMod n m false s =
      setRN n (moduloStep (getRN n s) (modAmount m (cfgOf n s)) ((cfgOf n s).toNat / 128)) s := by
  rw [postMod, modField_eq, if_neg (by simpa using hm), if_pos (by simp [hon]), if_neg hmod, if_pos hp]

end

/-! ## The modulo step -/

/-- The constraints of R102 in the words of the statement: `k` is the width of the modifier, and, when M is no power of
two, M and the low bits `low` of the pointer are multiples of the step, the pointer inside the buffer. -/
def ModuloFits (q : Int) (mod low k : Nat) : Prop :=
  2 ^ k = mod + q.natAbs ∨ ((∀ p, 2 ^ p ≠ mod + q.natAbs) ∧ mod < 2 ^ k ∧ (∀ p, mod < 2 ^ p → k ≤ p) ∧
    (mod + q.natAbs) % q.natAbs = 0 ∧ low % q.natAbs = 0 ∧ low ≤ mod)

section
variable {q : Int} {mod k : Nat} {r : Word}

theorem moduloFits_lt {low : Nat} (hq : q ≠ 0) (h : ModuloFits q mod low k) : mod < 2 ^ k := by
  rcases h with h | ⟨-, h, -⟩
  · omega
  · exact h

/-- The width is at most that of the nine bits of MOD and a step of seven. -/
theorem moduloFits_width {low : Nat} (hmod : mod < 512) (hq : q.natAbs ≤ 64) (h : ModuloFits q mod low k) : k ≤ 16 := by
  rcases h with h | ⟨-, -, hleast, -⟩
  · by_contra hk
    have : 2 ^ 16 ≤ 2 ^ k := Nat.pow_le_pow_right (by decide) (by omega)
    omega
  · exact (hleast 9 hmod).trans (by decide)

theorem moduloBits_eq {low : Nat} (hmod : mod ≠ 0) (h : ModuloFits q mod low k) : moduloBits q mod = k := by
  unfold moduloBits
  rcases h with h | ⟨hno, hlt, hleast, -⟩
  · rw [← h, Nat.log2_two_pow, if_pos rfl]
  · rw [if_neg (hno _)]
    have hup : k ≤ mod.log2 + 1 := hleast _ Nat.lt_log2_self
    have hdown : mod.log2 < k := (Nat.pow_lt_pow_iff_right (by decide)).1 ((Nat.log2_self_le hmod).trans_lt hlt)
    omega

theorem moduloProper_of_fits (hmod : mod ≠ 0) (hq : q ≠ 0) (h : ModuloFits q mod (r.toNat % 2 ^ k) k) :
    moduloProper r q mod = true := by
  unfold moduloProper
  rw [moduloBits_eq hmod h]
  rcases h with h | ⟨-, -, -, hM, hlow, hin⟩
  · simp [hq, ← h, Nat.log2_two_pow]
  · rw [Nat.add_mod_right] at hM
    simp [hq, hM, hlow, hin]

/-- The low `k` bits of a word replaced. -/
theorem toNat_replaceLow (r : Word) {k new : Nat} (hk : k ≤ 16) (hnew : new < 2 ^ k) :
    (BitVec.ofNat 16 (r.toNat - r.toNat % 2 ^ k + new)).toNat = 2 ^ k * (r.toNat / 2 ^ k) + new := by
  have hsplit := Nat.div_add_mod r.toNat (2 ^ k)
  have htop : r.toNat / 2 ^ k < 2 ^ (16 - k) := by
    rw [Nat.div_lt_iff_lt_mul (by positivity), ← pow_add, Nat.sub_add_cancel hk]
    exact r.isLt
  have hfit : 2 ^ k * (r.toNat / 2 ^ k) + new < 2 ^ 16 := by
    calc 2 ^ k * (r.toNat / 2 ^ k) + new < 2 ^ k * (r.toNat / 2 ^ k + 1) := by rw [Nat.mul_add]; omega
      _ ≤ 2 ^ k * 2 ^ (16 - k) := Nat.mul_le_mul_left _ htop
      _ = 2 ^ 16 := by rw [← pow_add, Nat.add_sub_cancel' hk]
  rw [BitVec.toNat_ofNat, show r.toNat - r.toNat % 2 ^ k + new = 2 ^ k * (r.toNat / 2 ^ k) + new by omega]
  exact Nat.mod_eq_of_lt hfit

/-- The modulo step keeps the bits above its width and moves the low ones (R101). -/
theorem moduloStep_spec (hbits : moduloBits q mod = k) (hk : k ≤ 16) (hmod : mod < 2 ^ k) :
    (moduloStep r q mod).toNat / 2 ^ k = r.toNat / 2 ^ k ∧
      (((moduloStep r q mod).toNat % 2 ^ k : Nat) : Int) = (if 0 ≤ q ∧ r.toNat % 2 ^ k = mod then (0 : Int)
        else if q < 0 ∧ r.toNat % 2 ^ k = 0 then (mod : Int) else (((r.toNat % 2 ^ k : Nat) : Int) + q) % 2 ^ k) := by
  unfold moduloStep
  rw [hbits]
  dsimp only
  have hpos : (0 : Int) < 2 ^ k := by positivity
  have hcast : (((((r.toNat % 2 ^ k : Nat) : Int) + q) % 2 ^ k).toNat : Int) = (((r.toNat % 2 ^ k : Nat) : Int) + q) % 2 ^ k :=
    Int.toNat_of_nonneg (Int.emod_nonneg _ hpos.ne')
  have hlt := Int.emod_lt_of_pos (((r.toNat % 2 ^ k : Nat) : Int) + q) hpos
  generalize hnew : (if 0 ≤ q ∧ r.toNat % 2 ^ k = mod then 0 else if q < 0 ∧ r.toNat % 2 ^ k = 0 then mod
    else ((((r.toNat % 2 ^ k : Nat) : Int) + q) % 2 ^ k).toNat) = new
  have hbound : new < 2 ^ k := by
    rw [← hnew]
    split_ifs
    · positivity
    · exact hmod
    · zify
      omega
  rw [toNat_replaceLow r hk hbound, Nat.mul_add_div (by positivity), Nat.div_eq_of_lt hbound, Nat.mul_add_mod,
    Nat.mod_eq_of_lt hbound, ← hnew]
  refine ⟨rfl, ?_⟩
  split_ifs
  · rfl
  · rfl
  · exact hcast

end

/-- A modulo post-modification under the constraints of R102. -/
theorem postMod_modulo_spec (n : RN) {m : PostMod} {s : State} {k : Nat} (hm : m ≠ .keep) (hon : moduloOn n s = true)
    (hmod : (cfgOf n s).toNat / 128 ≠ 0) (hq : modAmount m (cfgOf n s) ≠ 0)
    (hfits : ModuloFits (modAmount m (cfgOf n s)) ((cfgOf n s).toNat / 128) ((getRN n s).toNat % 2 ^ k) k) :
    let q := modAmount m (cfgOf n s)
    let old := (getRN n s).toNat
    let new := (getRN n (postMod n m false s)).toNat
    new / 2 ^ k = old / 2 ^ k ∧ (cfgOf n s).toNat / 128 < 2 ^ k ∧
      ((new % 2 ^ k : Nat) : Int) = (if 0 ≤ q ∧ old % 2 ^ k = (cfgOf n s).toNat / 128 then (0 : Int)
        else if q < 0 ∧ old % 2 ^ k = 0 then (((cfgOf n s).toNat / 128 : Nat) : Int)
        else (((old % 2 ^ k : Nat) : Int) + q) % 2 ^ k) ∧
      Keeps [.rn n] s s (postMod n m false s) := by
  have hlt := moduloFits_lt hq hfits
  have hk := moduloFits_width (by have := (cfgOf n s).isLt; omega) (modAmount_natAbs_le m _) hfits
  rw [postMod_modulo n hm hon hmod (moduloProper_of_fits hmod hq hfits), getRN_setRN_same]
  obtain ⟨hhigh, hlow⟩ := moduloStep_spec (r := getRN n s) (moduloBits_eq hmod hfits) hk hlt
  exact ⟨hhigh, hlt, hlow, keeps_setRN n _⟩

/-- Settles O13: outside modulo mode `postMod_linear`, in it `postMod_modulo_spec`. -/
theorem postModification : Obligations.PostModification := by
  refine ⟨fun n m s dmod hoff => ?_, fun n m s hon hm => ?_⟩
  · rw [← cfgOf_eq]
    by_cases hm : m = .keep
    · subst hm
      exact ⟨rfl, ⟨sameRegsBut_refl _ s, rfl, sameSystem_refl s, sameMemory_refl s, sameDevices_refl s⟩, rfl⟩
    · rw [postMod_linear n hm hoff]
      refine ⟨?_, keeps_setRN n _, setRN_fl ..⟩
      rw [getRN_setRN_same]
      cases m with
      | keep => exact absurd rfl hm
      | inc => exact BitVec.ofInt_natCast 16 ((getRN n s).toNat + 1)
      | dec => rfl
      | step => rfl
  · rw [← cfgOf_eq]
    have hframe := operand_postMod n m false s
    exact ⟨postMod_modulo_zero n hon, fun _ hmod hq hfits => postMod_modulo_spec n hm hon hmod hq hfits, hframe.regs,
      hframe.fl, hframe.memory⟩

end Sys2Proof.Machine
end

section
/-! The operands of a dual access (R93). -/

namespace Sys2Proof.Machine

/-- The read of a Y-RAM word at `a` in state `t` is an address match of the data breakpoints (R509, R510, log 49). -/
def YMatch (a : Word) (t : State) : Prop :=
  t.ctl.inTrap = false ∧ t.ocem.mode0.getLsbD 4 = false ∧ t.ocem.mode0.getLsbD 3 = true ∧
    (a ^^^ t.ocem.dabp) &&& ~~~t.ocem.dam = 0

theorem getLsbD_or_bit (w : Word) {k : Nat} (hk : k < 16) (n : Nat) :
    (w ||| (1#16 <<< k)).getLsbD n = true ↔ w.getLsbD n = true ∨ n = k := by
  have hbit : (1#16 <<< k) = BitVec.twoPow 16 k := (BitVec.twoPow_eq 16 k).symm
  rw [BitVec.getLsbD_or, hbit, BitVec.getLsbD_twoPow, Bool.or_eq_true, decide_eq_true hk, Bool.true_and,
    decide_eq_true_eq, eq_comm (a := k)]

/-- What the read of a Y-RAM word does in a state `t` whose control state and emulation module are those of `s`: on an
address match cause bit 1 is set and the latency of a data breakpoint starts, else nothing changes. -/
theorem yRamRead_effect {a : Word} {s t : State} (hctl : t.ctl = s.ctl) (hocem : t.ocem = s.ocem)
    (ha : 0xF800 ≤ a.toNat) :
    let o := s.ocem
    let u := (yRamRead a t).2
    u = { t with ocem := { o with status0 := u.ocem.status0, biData := u.ocem.biData } } ∧
      (∀ n, u.ocem.status0.getLsbD n = true ↔ o.status0.getLsbD n = true ∨ (n = 1 ∧ YMatch a s)) ∧
      (YMatch a s → o.biData = 0 → u.ocem.biData = 2) ∧ (¬YMatch a s ∨ o.biData ≠ 0 → u.ocem.biData = o.biData) := by
  have hsame : YMatch a s = YMatch a t := by rw [YMatch, YMatch, hctl, hocem]
  have hlegal : ocemIllegalAddr a = false := by
    simp only [ocemIllegalAddr, Bool.or_eq_false_iff, Bool.and_eq_false_iff, decide_eq_false_iff_not]
    omega
  have hmatch : (!t.ctl.inTrap && (!t.ocem.mode0.getLsbD 4 && (t.ocem.mode0.getLsbD 3 && ocemMatchAddr t.ocem a))) = true ↔
      YMatch a t := by
    simp [YMatch, ocemMatchAddr, Config.damOneMasks]
  dsimp only
  rw [hsame, ← hocem, (yRamRead_spec a t hlegal).2]
  by_cases hy : YMatch a t
  · rw [if_pos (hmatch.2 hy)]
    refine ⟨rfl, fun n => ?_, fun _ h0 => if_pos h0, fun h => if_neg (h.resolve_left (not_not_intro hy))⟩
    rw [and_iff_left hy]
    exact getLsbD_or_bit t.ocem.status0 (by decide) n
  · rw [if_neg (mt hmatch.1 hy)]
    exact ⟨rfl, fun n => by simp [hy], fun h => absurd h hy, fun _ => rfl⟩

/-- What reading the X operand can do: the word at rI, or, in Y-RAM, a free one. -/
theorem readX_eq (k : RI) (m : PostMod) (s : State) : readX k m s =
    if 0xF800 ≤ (getRN (rnOfI k) s).toNat then .next (freeRead (postMod (rnOfI k) m false s))
    else dataRead (getRN (rnOfI k) s) (postMod (rnOfI k) m false s) := by
  simp only [readX, inYRam_iff]

/-- Settles O34: inside its memory an operand is the word there, outside a free one. -/
theorem dualOperands : Obligations.DualOperands := by
  intro j k m s
  refine ⟨fun hin => ?_, fun hout => ?_, fun hout => ?_, fun hin => ?_⟩
  · refine ⟨_, (readY_next j m s).trans (by rw [if_pos hin]), ?_, yRamRead_effect (postMod_ctl ..) (postMod_ocem ..) hin⟩
    rw [yRamRead, postMod_data]
  · rw [readX_eq, if_neg (by omega)]
  · exact ⟨_, (readY_next j m s).trans (by rw [if_neg (by omega)]), rfl⟩
  · exact ⟨_, (readX_eq k m s).trans (if_pos hin), rfl⟩

end Sys2Proof.Machine
end

section
/-! Writes of a register of class REG and stores: what they do, in the words of `RegTakes` and `Stored`. -/

namespace Sys2Proof.Machine

/-! ## The write of a register -/

theorem accOfHalf_hi_eq_ofInt (v : Word) : accOfHalf .hi v = BitVec.ofInt 36 (v.toInt * 65536) := by
  rw [← highOperand_eq_ofInt]
  apply BitVec.eq_of_getLsbD_eq
  intro i hi
  rw [accOfHalf, highOperand, sext36, BitVec.getLsbD_append, BitVec.getLsbD_shiftLeft, BitVec.getLsbD_signExtend,
    BitVec.getLsbD_signExtend]
  by_cases hlow : i < 16
  · simp [hlow]
  · simp [hlow, hi, show i - 16 < 20 by omega, show i - 16 < 36 by omega]

/-- A write of a register that names an accumulator writes the accumulator, with the value `RegTakes` gives it. -/
theorem writeReg_acc {r : Reg} {a : Acc} (h : accOfReg r = some a) (v : Word) : ∃ w : Acc36,
    (∀ t, writeReg r v t = setAcc a w t) ∧ ∀ eff ch s t u, eff a w ch s t u → RegTakes eff r v ch s t u := by
  cases r with
  | a0 | a1 => cases h; exact ⟨sext36 v, fun _ => rfl, fun _ _ _ _ _ hu => hu⟩
  | a0l | a1l | b0l | b1l =>
    cases h
    refine ⟨zext36 v, fun _ => rfl, fun _ _ _ _ _ hu => ?_⟩
    rwa [zext36_eq_ofNat] at hu
  | a0h | a1h | b0h | b1h =>
    cases h
    refine ⟨accOfHalf .hi v, fun _ => rfl, fun _ _ _ _ _ hu => ?_⟩
    rwa [accOfHalf_hi_eq_ofInt] at hu
  | _ => cases h

/-- The four extension bits replaced, the low 32 bits stay. -/
theorem toNat_extension_mod (e : BitVec 4) (a : Acc36) :
    (e ++ a.extractLsb' 0 32 : Acc36).toNat % 2 ^ 32 = a.toNat % 2 ^ 32 := by
  rw [toNat_append_eq_add, BitVec.extractLsb'_toNat, Nat.shiftRight_zero, Nat.mul_add_mod_self_right, Nat.mod_mod]

theorem ocemExtWatch_off {k : Nat} {s : State} (h : s.ocem.mode0.getLsbD k = false) :
    (ocemExtWatch k s).ocem = s.ocem := by
  rw [ocemExtWatch, if_neg (by rw [ocemArmed, h, Bool.false_and]; decide)]

theorem extWrite_portTakes (k : BitVec 2) (v : Word) (t : State) : RegTakes.PortTakes k v t (extWrite k v t) := by
  unfold extWrite
  rw [ocemExtWatch_frame]
  refine ⟨rfl, rfl, fun hoff => ?_⟩
  exact ocemExtWatch_off (s := { t with extLog := t.extLog ++ [.write k v] }) hoff

section
variable {ch : List Place} {s t : State}

theorem keeps_setRN_operand (h : Operand ch s t) (n : RN) (w : Word) : Keeps (.rn n :: ch) s t (setRN n w t) := by
  have hw := operand_trans h (operand_setRN n w t.freeCount t)
  exact keeps_mono (b := .rn n :: ch) ⟨hw.regs, hw.pc, hw.system, hw.memory, by simp [SameDevices]⟩ (by simp [or_comm])

/-- A change of registers that only the place `q` shows. -/
theorem keeps_with_regs (h : Operand ch s t) (q : Place) {g : Regs}
    (hg : ∀ k, k ≠ q → k.value { t with regs := g } = k.value t) : Keeps (q :: ch) s t { t with regs := g } := by
  refine ⟨fun k hk => ?_, h.pc, h.system, h.memory, sameDevices_refl t⟩
  rw [List.mem_cons, not_or] at hk
  rw [hg k hk.1, h.regs k hk.2]

/-- A register of class REG that names no accumulator takes the word written to it. -/
theorem regTakes_writeReg (h : Operand ch s t) {r : Reg} (hr : accOfReg r = none) (v : Word)
    (eff : Acc → Acc36 → List Place → State → State → State → Prop) : RegTakes eff r v ch s t (writeReg r v t) := by
  cases r with
  | r0 | r1 | r2 | r3 | r4 | r5 => exact ⟨rfl, rfl, keeps_setRN_operand h _ v⟩
  | rb | y | sp | cfgi | cfgj | lc | sv =>
    exact ⟨rfl, rfl, keeps_with_regs h _ fun k hk => by cases k <;> first | exact absurd rfl hk | rfl⟩
  | st0 => exact ⟨st0Image_writeSt0 t v, toNat_extension_mod _ _, rfl⟩
  | st1 => exact ⟨st1Image_writeSt1 t v, toNat_extension_mod _ _, rfl⟩
  | st2 => exact ⟨st2Image_writeSt2 t v, rfl⟩
  | p =>
    refine ⟨?_, rfl, rfl, keeps_with_regs h .p fun k hk => by cases k <;> first | exact absurd rfl hk | rfl⟩
    dsimp only [writeReg, writePh]
    rw [toNat_append_eq_add, BitVec.extractLsb'_toNat, Nat.shiftRight_zero]
  | pc => rfl
  | ext0 | ext1 | ext2 | ext3 => exact extWrite_portTakes _ v t
  | _ => cases hr

/-- An accumulator written, with new flags. -/
theorem keeps_setAcc (h : Operand ch s t) (a : Acc) (w : Acc36) (f : Flags) :
    Keeps (.acc a :: ch) s t { setAcc a w t with fl := f } := by
  rw [← setAcc_with_fl]
  exact keeps_writeResult h a w fun _ => f

theorem takesOnly_setAcc (h : Operand ch s t) (a : Acc) (w : Acc36) : TakesOnly a w ch s t (setAcc a w t) :=
  ⟨getAcc_setAcc_same .., setAcc_fl .., keeps_setAcc h a w (setAcc a w t).fl⟩

theorem movesTo_setAcc (h : Operand ch s t) (a : Acc) (w : Acc36) :
    MovesTo a w ch s t { setAcc a w t with fl := setFlagsMov w t.fl } :=
  ⟨getAcc_setAcc_same .., ZMN_setFlagsMov w t.fl, ⟨rfl, rfl, rfl, rfl⟩, keeps_setAcc h a w _⟩

/-- The register write of pop and of movp: with an accumulator of class ac the flags follow by `upd` (R375, R390). -/
def writeRegWith (upd : Acc36 → Flags → Flags) (r : Reg) (v : Word) (t : State) : State :=
  let u := writeReg r v t
  match accAOfReg r with
  | some a => { u with fl := upd (getAcc a u) u.fl }
  | none => u

theorem popToReg_eq (r : Reg) (v : Word) (t : State) : popToReg r v t = writeRegWith setFlagsMov r v t := rfl

theorem movpToReg_eq (r : Reg) (v : Word) (t : State) : movpToReg r v t = writeRegWith setFlags36 r v t := rfl

theorem accAOfReg_eq (r : Reg) : accAOfReg r = (accOfReg r).filter fun a => a == .a0 || a == .a1 := by
  cases r <;> rfl

/-- What such a write does, from what it does to an accumulator of either class. -/
theorem regTakes_writeRegWith {eff : Acc → Acc36 → List Place → State → State → State → Prop}
    {upd : Acc36 → Flags → Flags} (h : Operand ch s t)
    (hA : ∀ a w, a = .a0 ∨ a = .a1 → eff a w ch s t { setAcc a w t with fl := upd w t.fl })
    (hB : ∀ a w, a = .b0 ∨ a = .b1 → eff a w ch s t (setAcc a w t)) (r : Reg) (v : Word) :
    RegTakes eff r v ch s t (writeRegWith upd r v t) := by
  unfold writeRegWith
  rw [accAOfReg_eq]
  cases hr : accOfReg r with
  | none => exact regTakes_writeReg h hr v eff
  | some a =>
    obtain ⟨w, hw, htakes⟩ := writeReg_acc hr v
    refine htakes _ _ _ _ _ ?_
    rw [hw]
    cases a with
    | b0 => exact hB .b0 w (.inl rfl)
    | b1 => exact hB .b1 w (.inr rfl)
    | a0 => exact hA .a0 w (.inl rfl)
    | a1 => exact hA .a1 w (.inr rfl)

theorem regTakes_popToReg (h : Operand ch s t) (r : Reg) (v : Word) : RegTakes PopsTo r v ch s t (popToReg r v t) := by
  rw [popToReg_eq]
  refine regTakes_writeRegWith h (fun a w ha => ?_) (fun a w ha => ?_) r v
  · rcases ha with rfl | rfl <;> exact movesTo_setAcc h _ w
  · rcases ha with rfl | rfl <;> exact takesOnly_setAcc h _ w

theorem regTakes_movpToReg (h : Operand ch s t) (r : Reg) (v : Word) :
    RegTakes MovpsTo r v ch s t (movpToReg r v t) := by
  rw [movpToReg_eq]
  refine regTakes_writeRegWith h (fun a w ha => ?_) (fun a w ha => ?_) r v
  · rcases ha with rfl | rfl <;>
      exact ⟨rfl, ZMEN_setFlags36 w _, ⟨rfl, rfl, rfl, rfl⟩, keeps_setAcc h _ w _⟩
  · rcases ha with rfl | rfl <;> exact takesOnly_setAcc h _ w

end

/-! ## Stores -/

/-- A data write from a state `q` that has the memory, the program counter and the system state of `s`. -/
theorem stored_of_dataWrite {a v : Word} {ch : List Place} {s t q w : State} (hw : dataWrite a v q = .next w)
    (hregs : SameRegsBut ch s q) (hpc : q.pc = s.pc) (hfl : q.fl = t.fl) (hsys : SameSystem s q)
    (hdata : q.data = s.data) (hprog : q.prog = s.prog) : Stored a v ch s t w w := by
  obtain ⟨wregs, wpc, wfl, wcore, wprog⟩ := dataWrite_keeps hw
  refine ⟨rfl, fun k h0 h1 => ?_, fun k => ?_, fun hwf hram => ?_, ?_, wpc.trans hpc, wfl.trans hfl, ?_⟩
  · rw [dataWrite_byte hw h0 h1, hdata]
  · rw [wprog, hprog]
  · exact dataWrite_ram hw hram (hdata ▸ hwf)
  · exact fun k hk => (wregs k nofun).trans (hregs k hk)
  · obtain ⟨hmd, hsh, hctl, -, h0, h1, htm, hin, harm⟩ := hsys
    obtain ⟨kmd, ksh, kctl, k0, k1, ktm, kin, karm⟩ := wcore
    exact ⟨kmd.trans hmd, ksh.trans hsh, kctl.trans hctl, k0.trans h0, k1.trans h1, ktm.trans htm, kin.trans hin,
      karm.trans harm⟩

theorem readRegSat_data (r : Reg) (s : State) : (readRegSat r s).2.data = s.data := by rw [readRegSat_frame]

theorem readRegSat_prog (r : Reg) (s : State) : (readRegSat r s).2.prog = s.prog := by rw [readRegSat_frame]

/-! ## The stack -/

/-- A change of sp. -/
theorem operand_setSp (w : Word) (s : State) : Operand [.sp] s { s with regs := { s.regs with sp := w } } :=
  ⟨fun q hq => by cases q <;> first | exact absurd (List.mem_singleton.2 rfl) hq | rfl, rfl, rfl, sameSystem_refl s,
    sameMemory_refl s⟩

theorem push_eq {v low : Word} {s : State} (h : s.regs.sp - 1 = low) :
    push v s = dataWrite low v { s with regs := { s.regs with sp := low } } := by
  subst h
  rfl

theorem writeReg_sp {r : Reg} (hr : r ≠ .sp) (v : Word) (t : State) : (writeReg r v t).regs.sp = t.regs.sp := by
  cases r with
  | sp => exact absurd rfl hr
  | ext0 | ext1 | ext2 | ext3 => exact congrArg (·.regs.sp) (ocemExtWatch_frame 5 _)
  | _ => rfl

theorem popToReg_sp {r : Reg} (hr : r ≠ .sp) (v : Word) (t : State) : (popToReg r v t).regs.sp = t.regs.sp := by
  unfold popToReg
  dsimp only
  split <;> exact writeReg_sp hr v t

theorem popWord_of_reads {v : Word} {s t : State} (h : Reads s.regs.sp s v t) :
    popWord s = .next (v, { t with regs := { t.regs with sp := s.regs.sp + 1 } }) := by
  unfold popWord
  rw [h, andThen_next, readsRegs h]

/-- Settles O43: push is a store at the new sp, pop a read at sp and a register write. -/
theorem stackMoves : Obligations.StackMoves := by
  intro s
  refine ⟨fun r w hwf hw => ?_, fun v w hw => ?_, fun r v t hwf hread => ?_⟩
  · have hrule : rulePush r = none := Option.isNone_iff_eq_none.1 hwf
    obtain ⟨hplaces, hpc, hsys, -, hregs⟩ := readRegSat_keeps r s
    refine ⟨w, checkOperand_eq_next.2 ⟨hrule, (push_eq (by rw [hregs])).trans hw⟩, ?_,
      congrArg (·.regs.sp) (dataWrite_frame hw).1⟩
    exact stored_of_dataWrite hw (sameRegsBut_trans hplaces (operand_setSp _ _).regs) hpc rfl hsys (readRegSat_data r s)
      (readRegSat_prog r s)
  · refine ⟨w, (push_eq rfl).trans hw, ?_, congrArg (·.regs.sp) (dataWrite_frame hw).1⟩
    exact stored_of_dataWrite hw (operand_setSp _ s).regs rfl rfl (sameSystem_refl s) rfl rfl
  · have hrule : rulePop r = none := Option.isNone_iff_eq_none.1 hwf
    have hsp : r ≠ .sp := by
      rintro rfl
      cases hrule
    refine ⟨_, checkOperand_eq_next.2 ⟨hrule, by rw [popWord_of_reads hread, andThen_next]⟩, ?_, popToReg_sp hsp _ _⟩
    exact regTakes_popToReg (operand_trans (operand_read hread) (operand_setSp _ t)) r v

/-! ## The moves between the two spaces -/

section
variable {a v : Word} {s : State}

theorem progRead_next (h : a.toNat < 0x6000) : progRead a s = .next (memWord s.prog a, s) :=
  progRead_mapped s (decide_eq_true h)

theorem progRead_fault (h : 0x6000 ≤ a.toNat) : progRead a s = .fault .unmappedProg :=
  progRead_unmapped s (decide_eq_false (by omega))

theorem progWrite_next (h : a.toNat < 0x6000) : progWrite a v s = .next { s with prog := memSetWord s.prog a v } :=
  if_pos (decide_eq_true h)

theorem progWrite_fault (h : 0x6000 ≤ a.toNat) : progWrite a v s = .fault .unmappedProg :=
  if_neg (by simpa [progMapped] using h)

end

/-- The address movp takes from an accumulator is its raw low half. -/
theorem halfOf_lo_eq (v : Acc36) : halfOf .lo v = BitVec.ofNat 16 (v.toNat % 65536) := by
  apply BitVec.eq_of_toNat_eq
  rw [halfOf, BitVec.extractLsb'_toNat, Nat.shiftRight_zero, BitVec.toNat_ofNat]
  omega

/-- Two address registers post-modified one after the other. -/
theorem operand_postMod_postMod (n k : RN) (m mk : PostMod) (s : State) :
    Operand [.rn n, .rn k] s (postMod k mk false (postMod n m false s)) :=
  operand_trans (operand_postMod n m false s) (operand_postMod k mk false _)

theorem getRN_of_regs {s t : State} (h : t.regs = s.regs) (n : RN) : getRN n t = getRN n s := by
  unfold getRN
  rw [h]

/-- movp between the memories, by what its two accesses do. -/
theorem exec_movpIndInd {n : RN} {m : PostMod} {i : RI} {mi : PostMod} (hne : n ≠ rnOfI i) (s : State) :
    exec (.movpIndInd n m i mi) s = andThen (progRead (getRN n s) s) fun q =>
      dataWrite (getRN (rnOfI i) s) q.1 (postMod (rnOfI i) mi false (postMod n m false q.2)) := by
  show checkOperand (ruleMovpInd n i) _ = _
  rw [ruleMovpInd, if_neg (by simpa using hne), checkOperand_none]

/-- movd away from its own words, by what its two accesses do. -/
theorem exec_movd {i : RI} {mi : PostMod} {j : RJ} {mj : PostMod} {s : State} (h1 : getRN (rnOfJ j) s ≠ s.pc - 1)
    (h2 : getRN (rnOfJ j) s ≠ s.pc) : exec (.movd i mi j mj) s =
      andThen (dataRead (getRN (rnOfI i) s) (postMod (rnOfJ j) mj false (postMod (rnOfI i) mi false s))) fun q =>
        andThen (progWrite (getRN (rnOfJ j) s) q.1 q.2) fun t => .next { t with ocem := { t.ocem with mvd := true } } :=
  if_neg (by rw [Bool.or_eq_true, beq_iff_eq, beq_iff_eq]; exact not_or.2 ⟨h1, h2⟩)

theorem movd_refused {i : RI} {mi : PostMod} {j : RJ} {mj : PostMod} {s : State}
    (h : getRN (rnOfJ j) s = s.pc - 1 ∨ getRN (rnOfJ j) s = s.pc) :
    exec (.movd i mi j mj) s = .refused .movdNearPc :=
  if_pos (by rw [Bool.or_eq_true, beq_iff_eq, beq_iff_eq]; exact h)

/-- What a movd whose two accesses complete leaves: the word in program memory, MVD, and the state after the data read. -/
theorem movd_stores {ch : List Place} {pa v : Word} {s t : State} (h : Operand ch s t) (hprog : t.prog = s.prog) :
    let u : State := { t with prog := memSetWord t.prog pa v, ocem := { t.ocem with mvd := true } }
    (Memory.wf s.prog = true → memWord u.prog pa = v) ∧
      (∀ k, k ≠ 2 * pa.toNat → k ≠ 2 * pa.toNat + 1 → memByte u.prog k = memByte s.prog k) ∧ SameRegsBut ch s u := by
  rw [← hprog]
  refine ⟨memWord_setWord_self pa v, fun k h0 h1 => memByte_setWord_ne _ pa v h0 h1, fun q hq => ?_⟩
  rw [← h.regs q hq]
  cases q <;> rfl

/-- Settles O44: each move is its two accesses, and each access completes or faults by its address. -/
theorem programMemoryMoves : Obligations.ProgramMemoryMoves := by
  intro s
  refine ⟨fun a r => ?_, fun n m i mi hwf => ?_, fun i mi j mj => ⟨movd_refused, fun h1 h2 => ?_⟩⟩
  · dsimp only
    rw [← halfOf_lo_eq]
    have hexec : ∀ res, progRead (halfOf .lo (getAcc (accOfA a) s)) s = res →
        exec (.movpAccReg a r) s = andThen res fun q => .next (movpToReg r q.1 q.2) := fun _ h => h ▸ rfl
    refine ⟨fun hlt => ⟨_, hexec _ (progRead_next hlt), ?_⟩, fun hge => hexec _ (progRead_fault hge)⟩
    exact regTakes_movpToReg (operand_refl s) r _
  · have hne : n ≠ rnOfI i := by
      intro he
      simp [Instr.wf, operandRule, ruleMovpInd, he] at hwf
    rw [exec_movpIndInd hne]
    have hop := operand_postMod_postMod n (rnOfI i) m mi s
    refine ⟨fun hge => by rw [progRead_fault hge]; rfl, fun hlt hun => ?_, fun hlt hmap => ?_⟩
    · rw [progRead_next hlt]
      exact dataWrite_unmapped hun
    · rw [progRead_next hlt]
      obtain ⟨w, hw⟩ := dataWrite_mapped _ (memWord s.prog (getRN n s)) (postMod (rnOfI i) mi false (postMod n m false s)) hmap
      have hregs : w.regs = (postMod (rnOfI i) mi false (postMod n m false s)).regs := by rw [(dataWrite_frame hw).1]
      refine ⟨w, w, hw, hw, stored_of_dataWrite hw hop.regs hop.pc hop.fl hop.system (by simp) (by simp), ?_,
        getRN_of_regs hregs _⟩
      rw [getRN_of_regs hregs, postMod_getRN_ne _ _ _ _ _ hne]
  · rw [exec_movd h1 h2]
    refine ⟨fun hun => by rw [dataRead_unmapped hun]; rfl, fun hmap hge => ?_, fun hmap hlt => ?_⟩ <;>
      obtain ⟨v, t, hread⟩ := dataRead_mapped _ (postMod (rnOfJ j) mj false (postMod (rnOfI i) mi false s)) hmap
    · rw [hread, andThen_next, progWrite_fault hge, andThen_fault]
    · rw [hread, andThen_next, progWrite_next hlt, andThen_next]
      have hop : Operand [.rn (rnOfI i), .rn (rnOfJ j)] s t :=
        operand_trans (operand_postMod_postMod _ _ mi mj s) (operand_read hread)
      have hprog : t.prog = s.prog := by rw [dataRead_frame hread]; simp
      have hregs := readsRegs hread
      obtain ⟨hword, hbytes, hplaces⟩ := movd_stores (pa := getRN (rnOfJ j) s) (v := v) hop hprog
      obtain ⟨hmd, hsh, hctl, hdpmb, hpins⟩ := hop.system
      exact ⟨v, t, _, hread, rfl, hword, rfl, hbytes, rfl, hplaces, hop.memory.1, hop.fl, ⟨hmd, hsh, hctl, hpins⟩, hop.pc,
        hdpmb, getRN_of_regs hregs _, getRN_of_regs hregs _⟩

end Sys2Proof.Machine
end

section
/-! The order rules: what `instrInfo` says of an instruction, in the words of Safety.lean. -/

namespace Sys2Proof.Machine

section
variable (i : Instr) (r : Reg)

theorem dst_iff : (instrInfo i).dst = some r ↔ writesReg i r := by
  cases i <;> simp [instrInfo, infoPlain, infoTwo, writesReg, eq_comm (a := Reg.sv) (b := r)]

theorem src_iff : (instrInfo i).src = some r ↔ readsReg i r := by
  cases i <;> simp [instrInfo, infoPlain, infoTwo, readsReg, eq_comm (a := Reg.sv) (b := r)]

theorem longImm_iff : (instrInfo i).longImm = true ↔ ∃ v q, i = .movLongReg v q := by
  cases i <;> simp [instrInfo, infoPlain, infoTwo]

theorem kind_index_iff : (instrInfo i).kind = .index ↔ usesIndex i := by
  cases i <;> simp [instrInfo, infoPlain, infoTwo, usesIndex, ite_eq_iff]

theorem kind_mixpRead_iff : (instrInfo i).kind = .mixpRead ↔ ∃ q, i = .movMixpReg q := by
  cases i <;> simp [instrInfo, infoPlain, infoTwo, ite_eq_iff]

theorem kind_push_iff : (instrInfo i).kind = .push ↔ (∃ q, i = .pushReg q) ∨ ∃ v, i = .pushLong v := by
  cases i <;> simp [instrInfo, infoPlain, infoTwo, ite_eq_iff]

theorem kind_bkrep_iff : (instrInfo i).kind = .bkrep ↔ (∃ v b, i = .bkrepShort v b) ∨ ∃ q b, i = .bkrepReg q b := by
  cases i <;> simp [instrInfo, infoPlain, infoTwo, ite_eq_iff]

theorem kind_brk_iff : (instrInfo i).kind = .brk ↔ i = .brk := by
  cases i <;> simp [instrInfo, infoPlain, infoTwo, ite_eq_iff]

theorem kind_exp_iff : (instrInfo i).kind = .exp ↔ isExp i := by
  cases i <;> simp [instrInfo, infoPlain, infoTwo, isExp, ite_eq_iff]

theorem kind_maxMin_iff : (instrInfo i).kind = .maxMin ↔ isExtremum i := by
  cases i <;> simp [instrInfo, infoPlain, infoTwo, isExtremum, ite_eq_iff]

theorem kind_icrWrite_iff : (instrInfo i).kind = .icrWrite ↔ writesIcr i := by
  cases i <;> simp [instrInfo, infoPlain, infoTwo, writesIcr, ite_eq_iff]

/-- Of the instructions of kind movs only the one with a register operand names a register. -/
theorem kind_movs_iff (h : readsReg i r ∨ writesReg i r) : (instrInfo i).kind = .movs ↔ ∃ acc, i = .movsReg r acc := by
  cases i <;> simp_all [instrInfo, infoPlain, infoTwo, readsReg, writesReg]

/-- A write of `r` is a mov ##long exactly when its long flag is set. -/
theorem longImm_iff_of_writes (h : writesReg i r) : (instrInfo i).longImm = true ↔ ∃ v, i = .movLongReg v r := by
  rw [longImm_iff]
  refine exists_congr fun v => ⟨?_, fun h => ⟨r, h⟩⟩
  rintro ⟨q, rfl⟩
  exact congrArg (Instr.movLongReg v) h

/-- A bit-field operation that names a register to write is one on a register. -/
theorem kind_bitField_iff (h : writesReg i r) : (instrInfo i).kind = .bitField ↔ isBitFieldReg i := by
  cases i <;> simp_all [instrInfo, infoPlain, infoTwo, isBitFieldReg, writesReg]

theorem neverRepeated_iff :
    [Kind.brr, .callr, .trap, .ret, .reti, .retd, .retid, .rets, .rep, .calla, .repcRead].contains (instrInfo i).kind = true ↔
      neverRepeated i := by
  cases i with
  | movSpecAcc src _ => cases src <;> simp [instrInfo, infoPlain, neverRepeated]
  | _ => simp [instrInfo, infoPlain, infoTwo, neverRepeated]

/-- A block repeat that reads lc (R422). -/
theorem bkrep_lc_iff : (instrInfo i).kind = .bkrep ∧ (instrInfo i).src = some .lc ↔ ∃ b, i = .bkrepReg .lc b := by
  cases i <;> simp [instrInfo, infoPlain, infoTwo, ite_eq_iff]
end

end Sys2Proof.Machine
end

section
/-! The order rules, judged one after the other: when the step names one, and which. -/

namespace Sys2Proof.Machine

/-! ## The marks an instruction leaves -/

section
variable (i : Instr) (t : Timing)

theorem isExp_iff : isExp i ↔ (∃ n m d, i = .expInd n m d) ∨ (∃ r d, i = .expReg r d) ∨ ∃ x d, i = .expAcc x d := by
  cases i <;> simp [isExp]

theorem isExtremum_iff :
    isExtremum i ↔ (∃ x g m, i = .max x g m) ∨ (∃ x g m, i = .maxd x g m) ∨ ∃ x g m, i = .min x g m := by
  cases i <;> simp [isExtremum]

theorem writesIcr_iff : writesIcr i ↔ (∃ r, i = .movRegIcr r) ∨ ∃ v, i = .movShortIcr v := by
  cases i <;> simp [writesIcr]

theorem hazRb_leaveMarks :
    (leaveMarks (instrInfo i) t).hazRb = true ↔ writesReg i .rb ∧ ∀ v, i ≠ .movLongReg v .rb := by
  simp only [leaveMarks, Bool.and_eq_true, beq_iff_eq, dst_iff, Bool.not_eq_true', ← Bool.not_eq_true]
  exact and_congr_right fun h => by rw [longImm_iff_of_writes i _ h, not_exists]

theorem hazSp_leaveMarks : (leaveMarks (instrInfo i) t).hazSp = true ↔ writesReg i .sp := by
  simp only [leaveMarks, beq_iff_eq, dst_iff]

theorem hazExp_leaveMarks : (leaveMarks (instrInfo i) t).hazExp = true ↔ isExp i := by
  simp only [leaveMarks, beq_iff_eq, kind_exp_iff]

theorem hazMixp_leaveMarks : (leaveMarks (instrInfo i) t).hazMixp = true ↔ isExtremum i := by
  simp only [leaveMarks, beq_iff_eq, kind_maxMin_iff]

theorem hazIcr_leaveMarks : (leaveMarks (instrInfo i) t).hazIcr = true ↔ writesIcr i := by
  simp only [leaveMarks, beq_iff_eq, kind_icrWrite_iff]
end

/-! ## A list of rules -/

/-- `o` is the verdict on the rules of `l`: none when no rule is broken, else the name of a broken one. -/
structure Judges (o : Option SeqRule) (l : List (SeqRule × Prop)) : Prop where
  none_iff : o = none ↔ ∀ r ∈ l, ¬r.2
  broken_of_some : ∀ q, o = some q → ∃ r ∈ l, r.2 ∧ r.1 = q

section
variable {o o' : Option SeqRule} {l l' : List (SeqRule × Prop)} {q : SeqRule} {b : Bool} {P : Prop}

theorem judges_nil : Judges none [] := ⟨by simp, nofun⟩

/-- A rule is judged before the others. -/
theorem judges_cons (hb : b = true ↔ P) (h : Judges o l) : Judges (if b then some q else o) ((q, P) :: l) := by
  cases b with
  | true => exact ⟨by simp [hb.1], fun _ e => ⟨_, .head _, hb.1 rfl, Option.some.inj e⟩⟩
  | false =>
    have hP : ¬P := fun x => nomatch hb.2 x
    refine ⟨by simpa [hP] using h.none_iff, fun q' e => ?_⟩
    obtain ⟨r, hr, hbroken⟩ := h.broken_of_some q' e
    exact ⟨r, .tail _ hr, hbroken⟩

theorem judges_one (hb : b = true ↔ P) : Judges (if b then some q else none) [(q, P)] := judges_cons hb judges_nil

/-- Two lists of rules, one judged after the other. -/
theorem judges_append (h : Judges o l) (h' : Judges o' l') : Judges (o.orElse fun _ => o') (l ++ l') := by
  cases o with
  | none =>
    have hl := h.none_iff.1 rfl
    refine ⟨h'.none_iff.trans ⟨fun hl' r hr => (List.mem_append.1 hr).elim (hl r) (hl' r),
      fun hn r hr => hn r (List.mem_append_right l hr)⟩, fun q e => ?_⟩
    obtain ⟨r, hr, hbroken⟩ := h'.broken_of_some q e
    exact ⟨r, List.mem_append_right l hr, hbroken⟩
  | some q =>
    obtain ⟨r, hr, hbroken, hq⟩ := h.broken_of_some q rfl
    have hr' := List.mem_append_left l' hr
    refine ⟨⟨nofun, fun hn => (hn r hr' hbroken).elim⟩, fun _ e => ⟨r, hr', hbroken, hq.trans (Option.some.inj e)⟩⟩

theorem Judges.isSome_iff (h : Judges o l) : o.isSome = true ↔ ∃ r ∈ l, r.2 := by
  rw [Option.isSome_iff_ne_none, Ne, h.none_iff]
  push Not
  rfl
end

/-! ## The adjacent rules -/

/-- The rules on what may follow an instruction that left the marks `t` (R565, R567 to R570). -/
def adjacentRules (j : Instr) (t : Timing) : List (SeqRule × Prop) :=
  [(.rbThenIndex, t.hazRb = true ∧ usesIndex j),
    (.mixpAfterMax, t.hazMixp = true ∧ ∃ r, j = .movMixpReg r),
    (.svAfterExp, t.hazExp = true ∧ (readsReg j .sv ∨ writesReg j .sv) ∧ ∀ acc, j ≠ .movsReg .sv acc),
    (.pushAfterSp, t.hazSp = true ∧ ((∃ r, j = .pushReg r) ∨ ∃ v, j = .pushLong v)),
    (.bkrepAfterIcr, t.hazIcr = true ∧ ((∃ v b, j = .bkrepShort v b) ∨ ∃ r b, j = .bkrepReg r b))]

theorem adjacentRule_judges (j : Instr) (t : Timing) : Judges (adjacentRule (instrInfo j) t) (adjacentRules j t) := by
  refine judges_cons ?_ (judges_cons ?_ (judges_cons ?_ (judges_cons ?_ (judges_one ?_))))
  · simp [kind_index_iff]
  · simp [kind_mixpRead_iff]
  · simp only [Bool.and_eq_true, Bool.or_eq_true, beq_iff_eq, bne_iff_ne, and_assoc, src_iff, dst_iff]
    exact and_congr_right fun _ => and_congr_right fun h => by rw [Ne, kind_movs_iff j _ h, not_exists]
  · simp [kind_push_iff]
  · simp [kind_bkrep_iff]

theorem illegalPair_iff (i j : Instr) : illegalPair (instrInfo i) (instrInfo j) = true ↔ mayNotFollow i j := by
  rw [illegalPair, (adjacentRule_judges j _).isSome_iff]
  simp only [adjacentRules, List.exists_mem_cons_iff, List.not_mem_nil, false_and, exists_false, or_false,
    hazRb_leaveMarks, hazSp_leaveMarks, hazExp_leaveMarks, hazMixp_leaveMarks, hazIcr_leaveMarks, mayNotFollow]

end Sys2Proof.Machine
end

section
/-! The order rules that look at where an instruction stands, and when the step refuses (R107, R414, R421, R425, R566). -/

namespace Sys2Proof.Machine

/-! ## The lists of instructions -/

/-- R425 item 1: not the first instruction of a body. -/
def excludedAtStart (i : Instr) : Prop :=
  match i with
  | .brk | .movRegIcr _ | .movShortIcr _ | .movIcrAcc _ => True
  | _ => False

/-- R425 item 2, but for the registers: not at the last two addresses of a body. -/
def excludedAtEnd (i : Instr) : Prop :=
  match i with
  | .br _ _ | .brr _ _ | .call _ _ | .callr _ _ | .calla _ | .ret _ | .reti _ _ | .rets _ | .retd | .retid
  | .bkrepShort _ _ | .bkrepReg _ _ | .repReg _ | .repShort _ | .movIcrAcc _ => True
  | _ => False

/-- R414: not in the delay of a delayed return. -/
def excludedInDelay (i : Instr) : Prop :=
  match i with
  | .brr _ _ | .callr _ _ | .repReg _ | .repShort _ | .trap | .retd | .retid => True
  | _ => False

section
variable (i : Instr)

theorem excludedAtStart_iff :
    [Kind.brk, .icrWrite, .icrRead].contains (instrInfo i).kind = true ↔ excludedAtStart i := by
  cases i with
  | movSpecAcc src _ => cases src <;> simp [instrInfo, infoPlain, excludedAtStart]
  | _ => simp [instrInfo, infoPlain, infoTwo, excludedAtStart]

theorem excludedAtEnd_iff :
    [Kind.br, .brr, .call, .callr, .calla, .ret, .reti, .rets, .retd, .retid, .bkrep, .rep, .icrRead].contains
      (instrInfo i).kind = true ↔ excludedAtEnd i := by
  cases i with
  | movSpecAcc src _ => cases src <;> simp [instrInfo, infoPlain, excludedAtEnd]
  | _ => simp [instrInfo, infoPlain, infoTwo, excludedAtEnd]

theorem excludedInDelay_iff :
    [Kind.brr, .callr, .rep, .trap, .retd, .retid].contains (instrInfo i).kind = true ↔ excludedInDelay i := by
  cases i with
  | movSpecAcc src _ => cases src <;> simp [instrInfo, infoPlain, excludedInDelay]
  | _ => simp [instrInfo, infoPlain, infoTwo, excludedInDelay]

/-- `misplacedIn` by the lists above. -/
theorem misplacedIn_iff (a first last : Word) : misplacedIn i a first last ↔
    (a = first ∧ excludedAtStart i) ∨
      ((a = last ∨ a = last - 1) ∧ (writesReg i .pc ∨ writesReg i .lc ∨ readsReg i .lc ∨ excludedAtEnd i)) ∨
      (a = first + 1 ∧ writesReg i .lc) ∨ (a = first + 2 ∧ writesReg i .lc ∧ isBitFieldReg i) ∨ (a = last ∧ i = .brk) :=
  Iff.rfl
end

/-! ## The rules, one by one -/

/-- The program word at `a` is a nop. -/
def NopAt (a : Word) (s : State) : Prop := a.toNat < 0x6000 ∧ memWord s.prog a = 0

section
variable (i : Instr) (a : Word) (s : State)

theorem isNopAt_iff : isNopAt a s = true ↔ NopAt a s := by
  simp [isNopAt, progMapped, NopAt]

/-- A write of pc with no nops after it (R566). -/
theorem pcWriteRule_judges : Judges (pcWriteRule (instrInfo i) a s) [(.pcWithoutNops, writesReg i .pc ∧
    ¬(NopAt (a + BitVec.ofNat 16 (instrInfo i).words) s ∧
      ((∃ v, i = .movLongReg v .pc) ∨ NopAt (a + BitVec.ofNat 16 (instrInfo i).words + 1) s)))] := by
  have hrule : pcWriteRule (instrInfo i) a s = if (instrInfo i).dst == some .pc &&
      !(isNopAt (a + BitVec.ofNat 16 (instrInfo i).words) s &&
        ((instrInfo i).longImm || isNopAt (a + BitVec.ofNat 16 (instrInfo i).words + 1) s))
      then some .pcWithoutNops else none := by
    unfold pcWriteRule
    cases (instrInfo i).dst == some .pc with
    | false => rfl
    | true =>
      dsimp only
      cases isNopAt (a + BitVec.ofNat 16 (instrInfo i).words) s &&
        ((instrInfo i).longImm || isNopAt (a + BitVec.ofNat 16 (instrInfo i).words + 1) s) <;> rfl
  rw [hrule]
  refine judges_one ?_
  rw [Bool.and_eq_true, beq_iff_eq, dst_iff]
  refine and_congr_right fun hpc => ?_
  rw [Bool.not_eq_true', ← Bool.not_eq_true, Bool.and_eq_true, Bool.or_eq_true, longImm_iff_of_writes i _ hpc,
    isNopAt_iff, isNopAt_iff]

/-- An instruction that may not be repeated (R421). -/
theorem repeatRule_judges : Judges (repeatRule (instrInfo i) a s) [(.notRepeatable,
    s.ctl.repActive = true ∧ a = s.ctl.repAddr ∧
      ((instrInfo i).words = 2 ∨ writesReg i .pc ∨ neverRepeated i))] := by
  have hrule : repeatRule (instrInfo i) a s = if (s.ctl.repActive && a == s.ctl.repAddr) &&
      ((instrInfo i).words == 2 || (instrInfo i).dst == some .pc || [Kind.brr, .callr, .trap, .ret, .reti, .retd, .retid,
        .rets, .rep, .calla, .repcRead].contains (instrInfo i).kind) then some .notRepeatable else none := by
    unfold repeatRule
    cases s.ctl.repActive && a == s.ctl.repAddr <;> simp
  rw [hrule]
  refine judges_one ?_
  simp only [Bool.and_eq_true, Bool.or_eq_true, beq_iff_eq, dst_iff, neverRepeated_iff, and_assoc, or_assoc]

theorem misplaced_iff (first last : Word) : misplaced (instrInfo i) a first last = true ↔ misplacedIn i a first last := by
  have hbit : writesReg i .lc ∧ (instrInfo i).kind = .bitField ↔ writesReg i .lc ∧ isBitFieldReg i :=
    and_congr_right fun h => kind_bitField_iff i _ h
  have hend : excludedAtEnd i ∨ writesReg i .pc ∨ writesReg i .lc ∨ readsReg i .lc ↔
      writesReg i .pc ∨ writesReg i .lc ∨ readsReg i .lc ∨ excludedAtEnd i := by rw [or_comm, or_assoc, or_assoc]
  simp only [misplaced, misplacedIn_iff, Bool.and_eq_true, Bool.or_eq_true, beq_iff_eq, excludedAtStart_iff,
    excludedAtEnd_iff, dst_iff, src_iff, kind_brk_iff, and_assoc, hbit, hend, or_assoc]

/-- The pairs over the ends of the running body (R425 item 5). -/
theorem bodyPair_iff : bodyPair (instrInfo i) a s = true ↔
    (a = s.ctl.bkStart ∧ ∃ l, EndsWith s.prog ((s.ctl.bkEnd - a).toNat + 1) a l ∧ mayNotFollow l i) ∨
      (a + BitVec.ofNat 16 (instrInfo i).words - 1 = s.ctl.bkEnd ∧
        ∃ j, Holds s.prog s.ctl.bkStart j ∧ mayNotFollow i j) := by
  simp only [bodyPair, Bool.or_eq_true, Bool.and_eq_true, beq_iff_eq, Option.any_eq_true, illegalPair_iff, lastInstr_iff,
    instrAt_iff]

/-- An instruction that may not stand in a running block repeat (R422, R425). -/
theorem blockRule_judges : Judges (blockRule (instrInfo i) a s) [(.blockPlacement,
    s.ctl.lp = true ∧ (misplacedIn i a s.ctl.bkStart s.ctl.bkEnd ∨
      (∃ l ∈ s.ctl.bkSaved, misplacedIn i a l.first l.last) ∨ (∃ b, i = .bkrepReg .lc b) ∨
      (a = s.ctl.bkStart ∧ ∃ l, EndsWith s.prog ((s.ctl.bkEnd - a).toNat + 1) a l ∧ mayNotFollow l i) ∨
      (a + BitVec.ofNat 16 (instrInfo i).words - 1 = s.ctl.bkEnd ∧
        ∃ j, Holds s.prog s.ctl.bkStart j ∧ mayNotFollow i j)))] := by
  refine judges_one ?_
  simp only [Bool.and_eq_true, Bool.or_eq_true, beq_iff_eq, misplaced_iff, List.any_eq_true, bodyPair_iff,
    bkrep_lc_iff, or_assoc]
  refine and_congr_right fun _ => or_congr_right (or_congr_right ?_)
  rw [← or_assoc, or_comm]

/-- An instruction that may not stand in the delay of a delayed return (R414). -/
theorem delayRule_judges : Judges (delayRule (instrInfo i) s) [(.delaySlot, s.ctl.delayCount ≠ 0 ∧
    (writesReg i .pc ∨ transfers i s ∨ s.ctl.delayCount < cyclesOf (instrInfo i) s ∨ excludedInDelay i))] := by
  have hrule : delayRule (instrInfo i) s = if s.ctl.delayCount != 0 && ((instrInfo i).dst == some .pc ||
      [Kind.brr, .callr, .rep, .trap, .retd, .retid].contains (instrInfo i).kind || isTaken (instrInfo i) s ||
        decide (s.ctl.delayCount < cyclesOf (instrInfo i) s)) then some .delaySlot else none := by
    unfold delayRule
    by_cases h : s.ctl.delayCount = 0 <;> simp [h]
  rw [hrule]
  refine judges_one ?_
  simp only [Bool.and_eq_true, Bool.or_eq_true, bne_iff_ne, beq_iff_eq, decide_eq_true_eq, dst_iff, isTaken_iff,
    excludedInDelay_iff, or_assoc]
  refine and_congr_right fun _ => or_congr_right ?_
  rw [or_comm, or_assoc]

/-! ## The verdict -/

/-- The rules together, in the order the step tries them. -/
theorem orderRules_judges : Judges
    ((adjacentRule (instrInfo i) s.tm).orElse fun _ => (pcWriteRule (instrInfo i) a s).orElse fun _ =>
      (repeatRule (instrInfo i) a s).orElse fun _ => (blockRule (instrInfo i) a s).orElse fun _ =>
        delayRule (instrInfo i) s) (orderRules i a s) :=
  judges_append (adjacentRule_judges i s.tm) <| judges_append (pcWriteRule_judges i a s) <|
    judges_append (repeatRule_judges i a s) <| judges_append (blockRule_judges i a s) (delayRule_judges i s)

theorem nearMovd_iff : nearMovd (instrInfo i) a s = true ↔
    ∃ t ∈ s.tm.movdRecent, t.1 = a ∨ ((instrInfo i).words = 2 ∧ t.1 = a + 1) := by
  simp only [nearMovd, List.any_eq_true, Bool.or_eq_true, Bool.and_eq_true, beq_iff_eq]

/-- Near a recent movd the instruction is refused as such. -/
theorem orderRefusal_near (h : nearMovd (instrInfo i) a s = true) :
    orderRefusal (instrInfo i) a s = some .movdNearPc := if_pos h

/-- Else it is refused by the name of a broken rule, if one is broken. -/
theorem orderRefusal_far (h : ¬nearMovd (instrInfo i) a s = true) :
    ∃ o, orderRefusal (instrInfo i) a s = o.map Refusal.sequence ∧ Judges o (orderRules i a s) := by
  refine ⟨_, ?_, orderRules_judges i a s⟩
  rw [orderRefusal, if_neg h]
  split <;> rename_i ho <;> rw [ho] <;> rfl

/-- When an instruction is refused for an order rule, and by which name. -/
theorem orderRefusal_spec (h : ¬nearMovd (instrInfo i) a s = true) :
    (orderRefusal (instrInfo i) a s = none ↔ ∀ r ∈ orderRules i a s, ¬r.2) ∧
      ((∃ r ∈ orderRules i a s, r.2) →
        ∃ r ∈ orderRules i a s, r.2 ∧ orderRefusal (instrInfo i) a s = some (.sequence r.1)) := by
  obtain ⟨o, ho, hj⟩ := orderRefusal_far i a s h
  rw [ho]
  refine ⟨Option.map_eq_none_iff.trans hj.none_iff, fun hbroken => ?_⟩
  obtain ⟨q, hq⟩ := Option.isSome_iff_exists.1 (hj.isSome_iff.2 hbroken)
  obtain ⟨r, hr, hr2, rfl⟩ := hj.broken_of_some q hq
  exact ⟨r, hr, hr2, by rw [hq]; rfl⟩
end

end Sys2Proof.Machine
end

section
/-! How the step reaches the order rules: what the second word adds to the decoding, the fetch, and the parts of a step
that have nothing to do. -/

namespace Sys2Proof.Machine

/-! ## The second word -/

/-- `p` is what the first word decodes to with 0 after it, `q` with any word after it: the same, or two instructions of
two words. -/
def SecondWordOnly (p q : Except DecodeError Instr) : Prop :=
  p = q ∨ ∃ i j, p = .ok i ∧ q = .ok j ∧ (instrInfo i).words = 2 ∧ (instrInfo j).words = 2

theorem secondWordOnly_refl (p : Except DecodeError Instr) : SecondWordOnly p p := .inl rfl

theorem secondWordOnly_ok_iff {i j : Instr} : SecondWordOnly (.ok i) (.ok j) ↔
    i = j ∨ (instrInfo i).words = 2 ∧ (instrInfo j).words = 2 := by
  simp [SecondWordOnly]

theorem secondWordOnly_withRN_iff {f g : RN → Instr} (w : Word) : SecondWordOnly (withRN w f) (withRN w g) ↔
    ∀ n, decRN (bits w 2 0) = some n → SecondWordOnly (.ok (f n)) (.ok (g n)) := by
  unfold withRN withRNField
  cases decRN (bits w 2 0) with
  | none => simp [secondWordOnly_refl]
  | some n => simp

/-- A row looks at the second word only to build a two-word instruction. -/
def RowFetched (r : OpRow) : Prop := ∀ w x : Word, SecondWordOnly (r.build w 0) (r.build w x)

theorem fetched_rowsAlm : ∀ r ∈ rowsAlm, RowFetched r := by
  simp [rowsAlm, RowFetched, secondWordOnly_refl]

theorem fetched_rowsAlu : ∀ r ∈ rowsAlu, RowFetched r := by
  simp [rowsAlu, RowFetched, secondWordOnly_refl, secondWordOnly_ok_iff, instrInfo, infoTwo]

theorem fetched_rowsMod : ∀ r ∈ rowsMod, RowFetched r := by
  simp [rowsMod, RowFetched, secondWordOnly_refl]

theorem fetched_rowsAlb : ∀ r ∈ rowsAlb, RowFetched r := by
  simp [rowsAlb, RowFetched, secondWordOnly_ok_iff, secondWordOnly_withRN_iff, instrInfo, infoTwo]

theorem fetched_rowsMul : ∀ r ∈ rowsMul, RowFetched r := by
  simp [rowsMul, RowFetched, secondWordOnly_refl, secondWordOnly_ok_iff, secondWordOnly_withRN_iff, instrInfo, infoTwo]

theorem fetched_rowsArith : ∀ r ∈ rowsArith, RowFetched r := by
  simp [rowsArith, RowFetched, secondWordOnly_refl]

theorem fetched_rowsMove : ∀ r ∈ rowsMove, RowFetched r := by
  simp [rowsMove, RowFetched, secondWordOnly_refl, secondWordOnly_ok_iff, instrInfo, infoTwo]

theorem fetched_rowsControl : ∀ r ∈ rowsControl, RowFetched r := by
  simp [rowsControl, RowFetched, secondWordOnly_refl, secondWordOnly_ok_iff, instrInfo, infoTwo]

theorem fetched_opRows {r : OpRow} (h : r ∈ opRows) : RowFetched r := by
  simp only [opRows, List.mem_append] at h
  obtain ((((((h | h) | h) | h) | h) | h) | h) | h := h
  · exact fetched_rowsAlm r h
  · exact fetched_rowsAlu r h
  · exact fetched_rowsMod r h
  · exact fetched_rowsAlb r h
  · exact fetched_rowsMul r h
  · exact fetched_rowsArith r h
  · exact fetched_rowsMove r h
  · exact fetched_rowsControl r h

theorem decode_secondWordOnly (w x : Word) : SecondWordOnly (decode w 0) (decode w x) := by
  unfold decode
  cases h : opRows.find? (fun r => rowMatches r w) with
  | none => exact secondWordOnly_refl _
  | some r => exact fetched_opRows (List.mem_of_find?_eq_some h) w x

/-! ## The step up to the order rules -/

section
variable {i : Instr} {s : State}

/-- The fetch gives the instruction that the words at the program counter decode to, and changes nothing. -/
theorem fetchInstr_of_decode {a : Word} (h : progMapped a = true)
    (h2 : (instrInfo i).words = 2 → progMapped (a + 1) = true)
    (hi : decode (memWord s.prog a) (memWord s.prog (a + 1)) = .ok i) : fetchInstr a s = .next (i, s) := by
  unfold fetchInstr
  rw [progRead_mapped s h, andThen_next]
  dsimp only
  obtain heq | ⟨j, k, hj, hk, hjw, hkw⟩ := decode_secondWordOnly (memWord s.prog a) (memWord s.prog (a + 1))
  · rw [heq, hi]
    dsimp only
    split
    next hw =>
      rw [progRead_mapped s (h2 hw), andThen_next]
      dsimp only
      rw [hi]
    next => rfl
  · obtain rfl : k = i := Except.ok.inj (hk.symm.trans hi)
    rw [hj]
    dsimp only
    rw [if_pos hjw, progRead_mapped s (h2 hkw), andThen_next]
    dsimp only
    rw [hi]

/-- With no events scheduled the agents change nothing. -/
theorem agentStep_of_no_inputs (h : s.inputs = []) : agentStep s = .next s := by
  simp [agentStep, scheduled, h, ocemExternal, Config.ocemAbort]

theorem pabHit_disabled (a p : Word) (k : BitVec 6) : pabHit false a p k = (k, false) := rfl

/-- With MODE0 = 0 no program breakpoint is enabled. -/
theorem ocemFetch_of_mode0 (a : Word) (h : s.ocem.mode0 = 0) : ocemFetch a s = s := by
  have harm : ∀ k, ocemArmed k s = false := fun k => by simp [ocemArmed, h]
  simp [ocemFetch, harm, pabHit_disabled]

/-- A step in which no agent acts and no interrupt is taken runs the instruction at the program counter. -/
theorem step_of_quiet (hin : s.inputs = []) (hbi : biAccepted s = false) (hint : intAccepted s = none)
    (hmode : s.ocem.mode0 = 0) (h : progMapped s.pc = true)
    (h2 : (instrInfo i).words = 2 → progMapped (s.pc + 1) = true)
    (hi : decode (memWord s.prog s.pc) (memWord s.prog (s.pc + 1)) = .ok i) : step s = runInstr i s := by
  rw [step, agentStep_of_no_inputs hin, andThen_next, coreStep, hbi, hint]
  simp [fetchRun, ocemFetch_of_mode0 s.pc hmode, hbi, fetchInstr_of_decode h h2 hi]

theorem runInstr_of_orderRefusal {r : Refusal} (h : orderRefusal (instrInfo i) s.pc s = some r) :
    runInstr i s = .refused r := by
  rw [runInstr, h]
end

/-! ## What the instruction before leaves -/

/-- movd leaves its target for the next three instructions, and the older targets count down (R107). -/
theorem afterMovd_eq (i : Instr) (b : State) (recent : List (Word × Nat)) :
    afterMovd i b recent = (match i with
        | .movd _ _ .r4 _ => [(b.regs.r4, 3)]
        | .movd _ _ .r5 _ => [(b.regs.r5, 3)]
        | _ => []) ++ (recent.filter fun t => 2 ≤ t.2).map fun t => (t.1, t.2 - 1) := by
  have hold : (recent.filterMap fun t => if t.2 ≤ 1 then none else some (t.1, t.2 - 1)) =
      (recent.filter fun t => 2 ≤ t.2).map fun t => (t.1, t.2 - 1) := by
    induction recent with
    | nil => rfl
    | cons t l ih => by_cases h : t.2 ≤ 1 <;> simp [h, ih, show 2 ≤ t.2 ↔ ¬t.2 ≤ 1 by omega]
  unfold afterMovd
  rw [hold]
  cases i with
  | movd _ _ j _ => cases j <;> rfl
  | _ => rfl

theorem afterInstr_marks (i : Instr) (a : Word) (b t : State) :
    ∃ m : Timing, (afterInstr i a b t).tm = leaveMarks (instrInfo i) m ∧
      m.movdRecent = afterMovd i b b.tm.movdRecent := ⟨_, rfl, rfl⟩

/-- Settles O60: the rules judged in order, the step of a state in which nothing else happens, and the marks an
instruction leaves. -/
theorem orderRules_hold : Obligations.OrderRules := by
  unfold Obligations.OrderRules
  refine ⟨fun i a s => ?_, fun i s r hin hbi hint hmode h h2 hi hr => ?_, fun i a b t => ?_⟩
  · have hnear := nearMovd_iff i a s
    exact ⟨fun h => orderRefusal_near i a s (hnear.2 h), fun h => orderRefusal_spec i a s (mt hnear.1 h)⟩
  · rw [step_of_quiet hin hbi hint hmode h h2 hi, runInstr_of_orderRefusal hr]
  · obtain ⟨m, hm, hrecent⟩ := afterInstr_marks i a b t
    dsimp only
    rw [hm]
    exact ⟨hazRb_leaveMarks i m, hazSp_leaveMarks i m, (hazExp_leaveMarks i m).trans (isExp_iff i),
      (hazMixp_leaveMarks i m).trans (isExtremum_iff i), (hazIcr_leaveMarks i m).trans (writesIcr_iff i),
      hrecent.trans (afterMovd_eq i b _)⟩

end Sys2Proof.Machine
end

section
/-! Encoding and decoding: no word is of two rows, what a row reads from an encoded word, the round trip, and the words
that are no instruction. -/

namespace Sys2Proof.Machine

/-! ## One row for each word -/

/-- Two rows differ in a bit that both fix. -/
def RowsApart (x y : OpRow) : Prop := x.pattern &&& y.mask ≠ y.pattern &&& x.mask

theorem RowsApart.not_match {x y : OpRow} {w : Word} (h : RowsApart x y) (hx : w &&& x.mask = x.pattern) :
    w &&& y.mask ≠ y.pattern := by
  intro hy
  refine h ?_
  rw [← hx, ← hy, BitVec.and_assoc, BitVec.and_assoc, BitVec.and_comm x.mask]

/-- The patterns of the table, every pair of them compared. -/
theorem opRows_apart : opRows.Pairwise RowsApart := by
  unfold RowsApart
  decide +kernel

/-- Settles O3: of two rows at different places one comes first, and the two are apart. -/
theorem oneRowEach : Obligations.OneRowEach := by
  unfold Obligations.OneRowEach
  intro w m n x y hm hn hx hy
  obtain ⟨hmlt, rfl⟩ := List.getElem?_eq_some_iff.1 hm
  obtain ⟨hnlt, rfl⟩ := List.getElem?_eq_some_iff.1 hn
  have apart := List.pairwise_iff_getElem.1 opRows_apart
  obtain hlt | heq | hgt := Nat.lt_trichotomy m n
  · exact absurd hy ((apart m n hmlt hnlt hlt).not_match hx)
  · exact heq
  · exact absurd hx ((apart n m hnlt hmlt hgt).not_match hy)

theorem row_unique {x y : OpRow} {w : Word} (hx : x ∈ opRows) (hy : y ∈ opRows) (hwx : w &&& x.mask = x.pattern)
    (hwy : w &&& y.mask = y.pattern) : x = y := by
  obtain ⟨m, hm⟩ := List.mem_iff_getElem?.1 hx
  obtain ⟨n, hn⟩ := List.mem_iff_getElem?.1 hy
  obtain rfl := oneRowEach w m n x y hm hn hwx hwy
  exact Option.some.inj (hm.symm.trans hn)

/-- A word of a row is decoded by that row, wherever the row stands in the table. -/
theorem decode_of_mem_opRows {r : OpRow} {w : Word} (w2 : Word) (hr : r ∈ opRows) (hw : w &&& r.mask = r.pattern) :
    decode w w2 = r.build w w2 := by
  unfold decode
  cases h : opRows.find? (fun x => rowMatches x w) with
  | none => exact absurd (List.find?_eq_none.1 h r hr) (by simp [rowMatches, hw])
  | some x =>
    have hx : w &&& x.mask = x.pattern := by simpa [rowMatches] using List.find?_some h
    rw [row_unique (List.mem_of_find?_eq_some h) hr hx hw]

/-! ## The codes of the fields -/

theorem decA_encA (a : AccA) : decA (encA a) = a := by cases a <;> rfl

theorem decB_encB (b : AccB) : decB (encB b) = b := by cases b <;> rfl

theorem decAcc_encAcc (a : Acc) : decAcc (encAcc a) = a := by cases a <;> rfl

theorem decHalf_encHalf (h : Half) : decHalf (encHalf h) = h := by cases h <;> rfl

theorem decStar_encStar (n : RNStar) : decStar (encStar n) = n := by cases n <;> rfl

theorem decI_encI (i : RI) : decI (encI i) = i := by cases i <;> rfl

theorem decJ_encJ (j : RJ) : decJ (encJ j) = j := by cases j <;> rfl

theorem decMod_encMod (m : PostMod) : decMod (encMod m) = m := by cases m <;> rfl

theorem decReg_encReg (r : Reg) : decReg (encReg r) = r := by cases r <;> rfl

theorem decCond_encCond (cc : Cond) : decCond (encCond cc) = cc := by cases cc <;> rfl

theorem decSwap_encSwap (p : SwapOpt) : decSwap (encSwap p) = some p := by cases p <;> rfl

theorem decFlag_encFlag (f : Bool) : decFlag (encFlag f) = f := by cases f <;> rfl

theorem withRNField_encRN (n : RN) (f : RN → Instr) : withRNField (encRN n) f = .ok (f n) := by cases n <;> rfl

theorem bits1_append_bits1 (k : BitVec 2) : bits1 k 1 ++ bits1 k 0 = k := by
  revert k
  decide

/-! ## The fixed bits of a word -/

/-- The bits of `x` that `mask` fixes are those of `pattern` (R132). -/
def Fits {n : Nat} (x mask pattern : BitVec n) : Prop := x &&& mask = pattern

theorem fits_append {n m : Nat} (x : BitVec n) (y : BitVec m) (k p : BitVec (n + m)) :
    Fits (x ++ y) k p ↔ Fits x (k.extractLsb' m n) (p.extractLsb' m n) ∧
      Fits y (k.extractLsb' 0 m) (p.extractLsb' 0 m) := by
  unfold Fits
  constructor
  · rintro rfl
    simp [BitVec.extractLsb'_and, BitVec.extractLsb'_append_eq_left, BitVec.extractLsb'_append_eq_right]
  · rintro ⟨hx, hy⟩
    rw [← BitVec.extractLsb'_append_extractLsb' (x := p), ← hx, ← hy, ← BitVec.and_append,
      BitVec.extractLsb'_append_extractLsb']

/-- The rule of a piece without operands: whether it fits is decided by computing. -/
theorem fits_fixed {n : Nat} {x k p : BitVec n} (h : x &&& k = p) : Fits x k p := h

/-- Where the row fixes no bit, every operand fits. -/
theorem fits_operand {n : Nat} {x k p : BitVec n} (hk : k = 0) (hp : p = 0) : Fits x k p := by
  subst hk hp
  exact BitVec.and_zero

section
variable {n m : Nat} {g : GPattern} {j l : Nat} {v : BitVec n} {w : Word}

/-- A field of a pattern of grade G outside the fixed bits changes none of them. -/
theorem fits_gPut {k p : Word} (h : ((BitVec.allOnes n).setWidth 16 <<< g.lo.getD j 0) &&& k = 0#16) :
    Fits (gPut g j v w) k p ↔ Fits w k p := by
  have hv : v.setWidth 16 = v.setWidth 16 &&& (BitVec.allOnes n).setWidth 16 := by
    rw [← BitVec.setWidth_and, BitVec.and_allOnes]
  have hclear : v.setWidth 16 <<< g.lo.getD j 0 &&& k = 0#16 := by
    rw [hv, BitVec.shiftLeft_and_distrib, BitVec.and_assoc, h, BitVec.and_zero]
  rw [Fits, Fits, gPut, BitVec.and_or_distrib_right, hclear, BitVec.or_zero]

/-! ## The fields of a word -/

theorem gField_gPut_same (h : g.lo.getD j 0 + n ≤ 16) : gField g j n (gPut g j v w) = gField g j n w ||| v := by
  unfold gField gPut
  generalize g.lo.getD j 0 = a at *
  ext i hi
  simp [show a + i < 16 by omega, BitVec.getLsbD_eq_getElem hi]

theorem gField_gPut_other (h : g.lo.getD j 0 + n ≤ g.lo.getD l 0 ∨ g.lo.getD l 0 + m ≤ g.lo.getD j 0) :
    gField g l m (gPut g j v w) = gField g l m w := by
  unfold gField gPut
  generalize g.lo.getD j 0 = a at *
  generalize g.lo.getD l 0 = b at *
  ext i hi
  have hout : b + i < a ∨ v.getLsbD (b + i - a) = false := by
    rcases h with h | h
    · exact .inr (BitVec.getLsbD_of_ge _ _ (by omega))
    · exact .inl (by omega)
  obtain h | h := hout <;> simp [h]

/-- The rule of a pattern with no operand put in yet: that its field is still 0 is decided by computing. -/
theorem gField_pattern (h : gField g j n g.pattern = 0#n) : gField g j n g.pattern = 0#n := h
end

/-! ## The row of an instruction -/

/-- Which of the rows that share a constructor encodes the instruction (log 13). -/
def rowVariant : Instr → Nat
  | .expInd _ _ none | .expReg _ none | .expAcc _ none | .movSpecAcc .dvm _ | .movShortHalf _ _ .hi => 1
  | .movSpecAcc .x _ => 2
  | _ => 0

/-- The row builds, from its own pattern, an instruction of the constructor and variant of `i`. -/
def buildsLike (i : Instr) (r : OpRow) : Bool :=
  match r.build r.pattern 0 with
  | .ok j => j.ctorIdx == i.ctorIdx && rowVariant j == rowVariant i
  | .error _ => false

/-- The words of `i` decode to `i`. -/
def Decodes (i : Instr) : Prop := decode ((encode i).getD 0 0) ((encode i).getD 1 0) = .ok i

/-- An instruction decodes from its words when the first has the fixed bits of a row and the row reads the operands
back. -/
theorem decodes_of_row {rows : List OpRow} {i : Instr} {r : OpRow} {w : Word} {ws : List Word}
    (hrows : rows ⊆ opRows) (hr : rows.find? (buildsLike i) = some r) (hi : encode i = w :: ws)
    (h : Fits w r.mask r.pattern ∧ r.build w (ws.getD 0 0) = .ok i) : Decodes i := by
  obtain ⟨hfits, hbuild⟩ := h
  rw [Decodes, hi]
  exact (decode_of_mem_opRows _ (hrows (List.mem_of_find?_eq_some hr)) hfits).trans hbuild

theorem groups_subset_opRows : rowsAlm ⊆ opRows ∧ rowsAlu ⊆ opRows ∧ rowsMod ⊆ opRows ∧ rowsAlb ⊆ opRows ∧
    rowsMul ⊆ opRows ∧ rowsArith ⊆ opRows ∧ rowsMove ⊆ opRows ∧ rowsControl ⊆ opRows := by
  refine ⟨?_, ?_, ?_, ?_, ?_, ?_, ?_, ?_⟩ <;> intro r h <;> simp [opRows, h]

/-- The cases stand by the groups of the table (R145 to R148, R154 to R156). In each the fixed bits of the encoding are
those of the row, and every field that the row reads is the operand written there. -/
theorem decode_encode (i : Instr) : Decodes i := by
  obtain ⟨alm, alu, mod, alb, mul, arith, move, control⟩ := groups_subset_opRows
  cases i
  case' expInd dst | expReg dst | expAcc dst => cases dst
  case' movSpecAcc src acc => cases src
  case' movShortHalf h => cases h
  case' orDirect | orInd | orReg | andDirect | andInd | andReg | xorDirect | xorInd | xorReg | addDirect | addInd |
      addReg | tst0AccDirect | tst0AccInd | tst0AccReg | tst1AccDirect | tst1AccInd | tst1AccReg | cmpDirect |
      cmpInd | cmpReg | subDirect | subInd | subReg | msuDirect | msuInd | msuReg | addhDirect | addhInd | addhReg |
      addlDirect | addlInd | addlReg | subhDirect | subhInd | subhReg | sublDirect | sublInd | sublReg | sqrDirect |
      sqrInd | sqrReg | sqraDirect | sqraInd | sqraReg | cmpuDirect | cmpuInd | cmpuReg =>
    refine decodes_of_row alm rfl rfl ?_
  case' orShort | orLong | orRbShort | orRbLong | orLongDirect | andShort | andLong | andRbShort | andRbLong |
      andLongDirect | xorShort | xorLong | xorRbShort | xorRbLong | xorLongDirect | addShort | addLong | addRbShort |
      addRbLong | addLongDirect | cmpShort | cmpLong | cmpRbShort | cmpRbLong | cmpLongDirect | subShort | subLong |
      subRbShort | subRbLong | subLongDirect =>
    refine decodes_of_row alu rfl rfl ?_
  case' shrA | shr4A | shlA | shl4A | rorA | rolA | clrA | notA | negA | rndA | pacrA | clrrA | incA | decA | copyA |
      shrB | shr4B | shlB | shl4B | rorB | rolB | clrB =>
    refine decodes_of_row mod rfl rfl ?_
  case' setInd | setReg | setDirect | rstInd | rstReg | rstDirect | chngInd | chngReg | chngDirect | addvInd |
      addvReg | addvDirect | tst0LongInd | tst0LongReg | tst0LongDirect | tst1LongInd | tst1LongReg | tst1LongDirect |
      cmpvInd | cmpvReg | cmpvDirect | subvInd | subvReg | subvDirect =>
    refine decodes_of_row alb rfl rfl ?_
  case' mpyInd | mpyReg | mpyDual | mpyLong | mpysuInd | mpysuReg | mpysuDual | mpysuLong | macInd | macReg |
      macDual | macLong | macusInd | macusReg | macusDual | macusLong | maaInd | maaReg | maaDual | maaLong |
      macuuInd | macuuReg | macuuDual | macuuLong | macsuInd | macsuReg | macsuDual | macsuLong | maasuInd |
      maasuReg | maasuDual | maasuLong | mpyDirect | macDirect | maaDirect | macsuDirect | mpyi | msuLong | msuDual =>
    refine decodes_of_row mul rfl rfl ?_
  case' norm | divs | maxd | max | min | lim | tstbInd | tstbReg | tstbDirect | shfc | shfi | expInd.some |
      expReg.some | expAcc.some | expInd.none | expReg.none | expAcc.none | movsReg | movsInd | movsDirect | movsi =>
    refine decodes_of_row arith rfl rfl ?_
  case' movRegReg | movAccAcc | movAccDvm | movAccX | movRegB | movRegMixp | movRegInd | movMixpReg |
      movSpecAcc.repc | movSpecAcc.dvm | movIcrAcc | movSpecAcc.x | movIndReg | movIndB | movSpReg | movRnDirect |
      movHalfDirect | movDirectRn | movDirectAcc | movDirectHalf | movDirectHighEu | movDirectSv | movSvDirect |
      movLongDirectA | movALongDirect | movLongReg | movLongB | movShortHalf.lo | movShortHalf.hi | movShortRn |
      movShortExt | movShortSv | movRegIcr | movShortIcr | movRbShortA | movARbShort | movRbLongA | movARbLong |
      movpAccReg | movpIndInd | movrReg | movrInd | pushReg | pushLong | pop | swap | banke | movd | modr | loadPage | loadMod |
      loadStep | loadPs =>
    refine decodes_of_row move rfl rfl ?_
  case' repReg | repShort | bkrepShort | bkrepReg | brk | br | brr | call | callr | calla | ret | retd | reti |
      retid | cntx | rets | nop | eint | dint | trap =>
    refine decodes_of_row control rfl rfl ?_
  all_goals
    simp (disch := decide) only [fits_append, fits_fixed, fits_operand, fits_gPut, true_and, bits, BitVec.extractLsb,
      BitVec.extractLsb'_append_eq_of_le, BitVec.extractLsb'_append_eq_of_add_le, BitVec.extractLsb'_eq_self,
      Nat.reduceSub, gField_gPut_same, gField_gPut_other, gField_pattern, BitVec.zero_or, withRN, withRNField_encRN,
      withSwap, decA_encA, decB_encB, decAcc_encAcc, decHalf_encHalf, decStar_encStar, decI_encI, decJ_encJ,
      decMod_encMod, decReg_encReg, decCond_encCond, decSwap_encSwap, decFlag_encFlag, List.getD_cons_zero]
  case movShortExt v k => exact congrArg (fun k => Except.ok (Instr.movShortExt v k)) (bits1_append_bits1 k)

theorem encode_length_eq_words (i : Instr) : (encode i).length = (instrInfo i).words := by
  cases i with
  | expInd n m dst => exact Laws.EncodeLength.expInd n m dst
  | expReg r dst => exact Laws.EncodeLength.expReg r dst
  | expAcc b dst => exact Laws.EncodeLength.expAcc b dst
  | movSpecAcc src acc => exact Laws.EncodeLength.movSpecAcc src acc
  | movShortHalf v a h => exact Laws.EncodeLength.movShortHalf v a h
  | _ => rfl

theorem words_eq_one_or_two (i : Instr) : (instrInfo i).words = 1 ∨ (instrInfo i).words = 2 := by
  have h : ((instrInfo i).words == 1 || (instrInfo i).words == 2) = true := by cases i <;> rfl
  simpa using h

/-- Settles O2: the round trip of every instruction, and the lengths of the encodings. -/
theorem decodeEncode : Obligations.DecodeEncode := by
  unfold Obligations.DecodeEncode
  intro i
  refine ⟨decode_encode i, encode_length_eq_words i, ?_⟩
  rw [encode_length_eq_words]
  exact words_eq_one_or_two i

/-- Words that are the encoding of an instruction decode to it. -/
theorem decode_of_encode_eq {i : Instr} {w w2 : Word} (hw : (encode i).getD 0 0 = w) (hw2 : (encode i).getD 1 0 = w2) :
    decode w w2 = .ok i := by
  subst hw hw2
  exact decode_encode i

/-- Settles O1: the words are the encodings of their instructions. -/
theorem decodeWords : Obligations.DecodeWords := by
  unfold Obligations.DecodeWords
  exact ⟨decode_of_encode_eq rfl rfl, decode_of_encode_eq rfl rfl, decode_of_encode_eq rfl rfl,
    decode_of_encode_eq rfl rfl, decode_of_encode_eq rfl rfl, decode_of_encode_eq rfl rfl⟩

/-! ## Words that are no instruction -/

section
variable {s : State}

/-- A step in which no agent acts and no interrupt is taken fetches and runs an instruction. -/
theorem step_eq_fetch (hin : s.inputs = []) (hbi : biAccepted s = false) (hint : intAccepted s = none)
    (hmode : s.ocem.mode0 = 0) : step s = andThen (fetchInstr s.pc s) fun q => runInstr q.1 q.2 := by
  rw [step, agentStep_of_no_inputs hin, andThen_next, coreStep, hbi, hint]
  simp [fetchRun, ocemFetch_of_mode0 s.pc hmode, hbi]

theorem fetchInstr_of_error {a : Word} {e : DecodeError} (h : progMapped a = true)
    (he : decode (memWord s.prog a) 0 = .error e) : fetchInstr a s = .refused (.reserved e) := by
  rw [fetchInstr, progRead_mapped s h, andThen_next]
  dsimp only
  rw [he]

theorem fetchInstr_of_unmapped {a : Word} (h : progMapped a = false) : fetchInstr a s = .fault .unmappedProg := by
  rw [fetchInstr, progRead_unmapped s h]
  rfl
end

/-- Settles O5: the step is the fetch, and the fetch refuses or faults. -/
theorem reservedWordsRefused : Obligations.ReservedWordsRefused := by
  unfold Obligations.ReservedWordsRefused
  intro s hin hbi hint hmode
  rw [step_eq_fetch hin hbi hint hmode]
  refine ⟨fun e h he => ?_, fun h => ?_⟩
  · rw [fetchInstr_of_error h he]
    rfl
  · rw [fetchInstr_of_unmapped h]
    rfl

end Sys2Proof.Machine
end

section
/-! The operands: the value of a register, the limited and the raw half of an accumulator, the shifted product. -/

namespace Sys2Proof.Machine

/-! ## Halves of an accumulator -/

/-- Either half, by the sixteen bits it starts at. -/
theorem toNat_halfOf (h : Half) (v : Acc36) :
    (halfOf h v).toNat = if h = .lo then v.toNat % 2 ^ 16 else v.toNat / 2 ^ 16 % 2 ^ 16 := by
  cases h <;> simp [halfOf, BitVec.extractLsb'_toNat, Nat.shiftRight_eq_div_pow]

/-- Either half, from the signed number: the low bits of it, or of its quotient rounded down. -/
theorem halfOf_eq_ofInt (h : Half) (v : Acc36) :
    halfOf h v = BitVec.ofInt 16 (if h = .hi then v.toInt / 2 ^ 16 else v.toInt) := by
  apply BitVec.eq_of_toNat_eq
  rw [toNat_halfOf, BitVec.toNat_ofInt, toInt36_eq]
  have := v.isLt
  cases h
  · rw [if_pos rfl, if_neg (by decide)]
    split <;> omega
  · rw [if_neg (by decide), if_pos rfl]
    split <;> omega

/-! ## Registers as operands -/

section
variable {r : Reg} {s : State}

theorem readReg_of_no_port (h : extOfReg r = none) : readReg r s = (regValue r s, s) := by
  rw [readReg, h]

/-- An accumulator half is read raw (D17). -/
theorem readReg_half {a : Acc} {h : Half} (hr : halfOfReg r = some (a, h)) : (readReg r s).1 = halfOf h (getAcc a s) := by
  cases r with
  | b0h | b1h | b0l | b1l | a0l | a1l | a0h | a1h => cases hr; rfl
  | _ => cases hr

theorem readWide_narrow (h : isWide r = false) : readWide r s = (sext36 (readReg r s).1, (readReg r s).2) := by
  cases r with
  | a0 | a1 | p => cases h
  | _ => rfl

theorem readWideLogic_narrow (h : isWide r = false) :
    readWideLogic r s = (zext36 (readReg r s).1, (readReg r s).2) := by
  cases r with
  | a0 | a1 | p => cases h
  | _ => rfl

end

/-- Settles O15: register by register, and the two extensions to 36 bits. -/
theorem registerOperands : Obligations.RegisterOperands := by
  unfold Obligations.RegisterOperands
  intro r s
  refine ⟨fun h => by rw [readReg_of_no_port h], fun q v hq => ?_, fun a h hr => ?_, rfl, rfl, rfl, rfl, rfl, rfl,
    fun h => ?_⟩
  · simp only [List.mem_cons, Prod.mk.injEq, List.not_mem_nil, or_false] at hq
    rcases hq with ⟨rfl, rfl⟩ | ⟨rfl, rfl⟩ | ⟨rfl, rfl⟩ | ⟨rfl, rfl⟩ | ⟨rfl, rfl⟩ | ⟨rfl, rfl⟩ | ⟨rfl, rfl⟩ |
      ⟨rfl, rfl⟩ | ⟨rfl, rfl⟩ | ⟨rfl, rfl⟩ | ⟨rfl, rfl⟩ | ⟨rfl, rfl⟩ | ⟨rfl, rfl⟩ | ⟨rfl, rfl⟩ <;> rfl
  · rw [readReg_half hr, toNat_halfOf]
  · rw [readWide_narrow h, readWideLogic_narrow h]
    exact ⟨sext36_eq_ofInt _, zext36_eq_ofNat _, rfl, rfl⟩

/-! ## The limited half -/

section
variable {a : Acc} {s : State}

/-- With saturation off, a half of an accumulator that does not fit 32 bits is limited, by the sign, and L is set. -/
theorem satRead_limited (h : Half) (hsat : s.md.sat = false) (hfit : fits32 (getAcc a s) = false) :
    satRead a h s = (if (getAcc a s).msb then (if h = .hi then 0x8000#16 else 0x0000#16)
      else (if h = .hi then 0x7FFF#16 else 0xFFFF#16), { s with fl := { s.fl with l := true } }) := by
  unfold satRead
  dsimp only
  rw [hsat, hfit]
  cases (getAcc a s).msb <;> cases h <;> rfl

theorem satRead_raw (h : Half) (hraw : s.md.sat = true ∨ fits32 (getAcc a s) = true) :
    satRead a h s = (halfOf h (getAcc a s), s) := by
  refine if_neg ?_
  rcases hraw with hsat | hfit
  · simp [hsat]
  · simp [hfit]

end

/-- Settles O16: the half is limited, by the sign of the accumulator, exactly when bits 35 to 31 are not all equal. -/
theorem saturationOnMoves : Obligations.SaturationOnMoves := by
  unfold Obligations.SaturationOnMoves
  intro a h s
  dsimp only
  have hfit := fits32_iff (getAcc a s)
  have hneg := msb36_iff (getAcc a s)
  refine ⟨fun hsat hv => ?_, fun hsat hv => ?_, fun hraw => ?_, satRead_frame a h s⟩
  · have hover : fits32 (getAcc a s) = false := by rw [← Bool.not_eq_true, hfit]; omega
    have hpos : (getAcc a s).msb = false := by rw [← Bool.not_eq_true, hneg]; omega
    rw [satRead_limited h hsat hover, hpos]
    exact ⟨rfl, rfl⟩
  · have hover : fits32 (getAcc a s) = false := by rw [← Bool.not_eq_true, hfit]; omega
    rw [satRead_limited h hsat hover, hneg.2 (by omega)]
    exact ⟨rfl, rfl⟩
  · rw [satRead_raw h (hraw.imp_right hfit.2)]
    exact ⟨rfl, halfOf_eq_ofInt h _⟩

/-! ## The product -/

/-- p as a number: signed, or unsigned after macuu (R24, D14). -/
def productInt (s : State) : Int := if s.regs.pUnsigned then s.regs.p.toNat else s.regs.p.toInt

/-- p extended to 36 bits, as its mark says. -/
def productWide (s : State) : Acc36 := if s.regs.pUnsigned then s.regs.p.setWidth 36 else s.regs.p.signExtend 36

theorem toInt_productWide (s : State) : (productWide s).toInt = productInt s := by
  unfold productWide productInt
  split
  · have := s.regs.p.isLt
    rw [toInt36_eq, BitVec.toNat_setWidth, Nat.mod_eq_of_lt (by omega), if_pos (by omega)]
  · exact BitVec.toInt_signExtend_of_le (by decide)

/-- What PS makes of the extended product (R186). -/
theorem shiftedP_eq (s : State) : shiftedP s = if s.md.ps = 0 then productWide s
    else if s.md.ps = 1 then (productWide s).sshiftRight 1
    else if s.md.ps = 2 then productWide s <<< 1 else productWide s <<< 2 := by
  unfold shiftedP
  generalize s.md.ps = k
  obtain rfl | rfl | rfl | rfl : k = 0 ∨ k = 1 ∨ k = 2 ∨ k = 3 := by bv_omega
  all_goals rfl

/-- Settles O17: each shift as arithmetic on the number that p stands for. -/
theorem shiftedProduct : Obligations.ShiftedProduct := by
  unfold Obligations.ShiftedProduct
  intro s
  change (s.md.ps = 0 → shiftedP s = BitVec.ofInt 36 (productInt s)) ∧
    (s.md.ps = 1 → shiftedP s = BitVec.ofInt 36 (productInt s / 2)) ∧
    (s.md.ps = 2 → shiftedP s = BitVec.ofInt 36 (productInt s * 2)) ∧
    (s.md.ps = 3 → shiftedP s = BitVec.ofInt 36 (productInt s * 4)) ∧ _
  rw [← toInt_productWide]
  refine ⟨fun h => ?_, fun h => ?_, fun h => ?_, fun h => ?_, sshiftRight_eq_ofInt _ 16⟩ <;> rw [shiftedP_eq, h]
  · exact BitVec.ofInt_toInt.symm
  · exact sshiftRight_eq_ofInt _ 1
  · exact shiftLeft_eq_ofInt _ 1
  · exact shiftLeft_eq_ofInt _ 2

end Sys2Proof.Machine
end

section
/-! Excluded operands and false conditions: the two ways an instruction does nothing. -/

namespace Sys2Proof.Machine

section
variable {cc : Cond} {s : State} {r : Res State}

theorem whenCond_true (h : condHolds cc s = true) : whenCond cc s r = r := if_pos h

/-- A false condition changes nothing (R191). -/
theorem whenCond_false (h : condHolds cc s = false) : whenCond cc s r = .next s := if_neg (by simp [h])

end

/-- Settles O18: the conditions one by one; every conditional instruction is `whenCond` of its meaning. -/
theorem conditions : Obligations.Conditions := by
  unfold Obligations.Conditions
  intro s
  refine ⟨fun cc => ?_, fun cc a b addr o src dst ctx hcc i hi => ?_⟩
  · cases cc <;> simp [condHolds]
  · simp only [List.mem_cons, List.not_mem_nil, or_false] at hi
    rcases hi with rfl | rfl | rfl | rfl | rfl | rfl | rfl | rfl | rfl | rfl | rfl | rfl | rfl | rfl | rfl | rfl | rfl |
      rfl | rfl | rfl | rfl | rfl | rfl | rfl | rfl | rfl | rfl | rfl | rfl <;> exact whenCond_false hcc

/-! ## Excluded operands -/

/-- Every meaning first checks the operand rule of its instruction; an instruction without a rule checks nothing. -/
theorem exec_eq_checkOperand (i : Instr) (s : State) : ∃ r, exec i s = checkOperand (operandRule i) r := by
  cases i <;> exact ⟨_, rfl⟩

section
variable {i : Instr} {a : AccA} {r : Reg}

theorem exec_of_excluded (s : State) (h : operandRule i = some .excluded) : exec i s = .refused .excludedOperand := by
  obtain ⟨r, hr⟩ := exec_eq_checkOperand i s
  rw [hr, h]
  rfl

theorem exec_of_sameAccumulator (s : State) (h : operandRule i = some .sameAccumulator) :
    exec i s = .refused .sameAccumulator := by
  obtain ⟨r, hr⟩ := exec_eq_checkOperand i s
  rw [hr, h]
  rfl

/-- The rule of the ALU instructions on the destination accumulator (R176). -/
theorem ruleAlu36_part (h : accAOfReg r = some (accOfA a)) : ruleAlu36 a r = some .sameAccumulator :=
  if_pos (beq_iff_eq.2 h)

theorem rule16_wide (h : isWide r = true) : rule16 r = some .excluded := if_pos h

theorem ruleAlu16_wide (h : isWide r = true) : ruleAlu16 a r = some .excluded := if_pos h

theorem ruleTstAcc_wide (h : isWide r = true) : ruleTstAcc a r = some .excluded := if_pos h

theorem rulePush_wide (h : isWide r = true) : rulePush r = some .excluded := if_pos (by rw [h]; rfl)

end

/-- Settles O23: a broken rule is refused by its name, and the lists name instructions with the same rule. -/
theorem excludedOperandsRefused : Obligations.ExcludedOperandsRefused := by
  unfold Obligations.ExcludedOperandsRefused
  intro i s
  refine ⟨fun hwf => ?_, fun a r hr j hj => ?_, fun a r hr j hj => ?_⟩
  · have hrule : operandRule i ≠ none := fun h => by simp [Instr.wf, h] at hwf
    obtain ⟨o, ho⟩ := Option.ne_none_iff_exists'.1 hrule
    cases o with
    | excluded => exact .inl (exec_of_excluded s ho)
    | sameAccumulator => exact .inr (exec_of_sameAccumulator s ho)
  · have hrule := ruleAlu36_part hr
    simp only [List.mem_cons, List.not_mem_nil, or_false] at hj
    rcases hj with rfl | rfl | rfl | rfl | rfl | rfl | rfl <;> exact exec_of_sameAccumulator s hrule
  · have hwide : isWide r = true := by rcases hr with rfl | rfl | rfl <;> rfl
    simp only [List.mem_cons, List.not_mem_nil, or_false] at hj
    apply exec_of_excluded
    rcases hj with rfl | rfl | rfl | rfl | rfl | rfl | rfl | rfl | rfl | rfl | rfl | rfl | rfl
    exacts [ruleAlu16_wide hwide, ruleAlu16_wide hwide, ruleAlu16_wide hwide, ruleAlu16_wide hwide,
      ruleAlu16_wide hwide, rule16_wide hwide, rule16_wide hwide, rule16_wide hwide, rule16_wide hwide,
      rule16_wide hwide, ruleTstAcc_wide hwide, rulePush_wide hwide, rule16_wide hwide]

end Sys2Proof.Machine
end
section
/-! Shifts, rotates, negation, rounding and steps of one accumulator. -/

namespace Sys2Proof.Machine

/-! ## The operations -/

section
variable {ch : List Place} {s t : State}

/-- A shift by an amount in range, of a value read from an operand or an accumulator (R240 to R242). -/
theorem shiftsTo_shiftInto (h : Operand ch s t) (acc : Acc) (v : Acc36) {n : Int} (hlow : -36 ≤ n) (hhigh : n ≤ 36) :
    ShiftsTo acc v n ch s t (shiftInto acc v n t) := by
  have hmode : t.md = s.md := h.system.1
  rw [shiftInto, if_pos (by simp [shiftInRange, hlow, hhigh]), hmode]
  refine ⟨?_, keeps_writeResult h _ _ _⟩
  rw [getAcc_writeResult, writeResult_fl, h.fl]
  cases s.md.s
  · exact ⟨shiftResult_arith v n,
      ArithFlags_setFlagsArith s.fl (shiftCarry_iff v n) (shiftOverflow_iff v n hhigh)⟩
  · exact ⟨shiftResult_logical v n, ZMEN_setFlags36 _ _, shiftCarry_iff v n, rfl, rfl, rfl⟩

theorem adds_doAddTo (h : Operand ch s t) (acc : Acc) (x b : Acc36) : Adds acc x b ch s t (doAddTo acc x b t) := by
  unfold doAddTo
  refine ⟨?_, ?_, keeps_writeResult h _ _ _⟩
  · rw [getAcc_writeResult, add_eq_ofInt]
  · rw [getAcc_writeResult, writeResult_fl, h.fl]
    exact ArithFlags_setFlagsAdd x b s.fl

theorem subs_doSubTo (h : Operand ch s t) (acc : Acc) (x b : Acc36) : Subs acc x b ch s t (doSubTo acc x b t) := by
  unfold doSubTo
  refine ⟨?_, ?_, keeps_writeResult h _ _ _⟩
  · rw [getAcc_writeResult, sub_eq_ofInt]
  · rw [getAcc_writeResult, writeResult_fl, h.fl]
    exact ArithFlags_setFlagsSub x b s.fl

end

/-- A conditional instruction whose condition holds answers what its meaning does. -/
theorem gives_whenCond {cc : Cond} {s u : State} {P : State → Prop} (hcc : condHolds cc s = true) (hu : P u) :
    Gives (whenCond cc s (.next u)) P :=
  ⟨u, whenCond_true hcc, hu⟩

/-! ## Rotates -/

theorem rotateRight_eq_ofNat (c : Bool) (v : Acc36) :
    (BitVec.ofBool c ++ v.extractLsb' 1 35 : Acc36) = BitVec.ofNat 36 ((if c then 1 else 0) * 2 ^ 35 + v.toNat / 2) := by
  apply BitVec.eq_of_toNat_eq
  rw [toNat_append_eq_add, BitVec.extractLsb'_toNat, Nat.shiftRight_eq_div_pow, BitVec.toNat_ofNat]
  have := v.isLt
  cases c <;> simp <;> omega

theorem rotateLeft_eq_ofNat (c : Bool) (v : Acc36) :
    (v.extractLsb' 0 35 ++ BitVec.ofBool c : Acc36) = BitVec.ofNat 36 (v.toNat * 2 + if c then 1 else 0) := by
  apply BitVec.eq_of_toNat_eq
  rw [toNat_append_eq_add, BitVec.extractLsb'_toNat, Nat.shiftRight_zero, BitVec.toNat_ofNat]
  cases c <;> simp <;> omega

/-- A rotate of `acc` from `s` to `u`: the value, C the bit rotated out, Z, M, E, N of the value, and V, L, R kept
(R248, R249). -/
def RotatesTo (acc : Acc) (v : Acc36) (carry : Prop) (s u : State) : Prop :=
  getAcc acc u = v ∧ (u.fl.c = true ↔ carry) ∧ ZMEN (getAcc acc u) u.fl ∧ u.fl.v = s.fl.v ∧ u.fl.l = s.fl.l ∧
    u.fl.r = s.fl.r ∧ Keeps [.acc acc] s s u

theorem rotatesTo_doRor (acc : Acc) (s : State) :
    RotatesTo acc (BitVec.ofNat 36 ((if s.fl.c then 1 else 0) * 2 ^ 35 + (getAcc acc s).toNat / 2))
      ((getAcc acc s).toNat % 2 = 1) s (doRor acc s) := by
  unfold RotatesTo doRor
  rw [getAcc_writeResult, writeResult_fl]
  have hbit := getLsbD36_iff (getAcc acc s) 0
  rw [pow_zero, Nat.div_one] at hbit
  exact ⟨rotateRight_eq_ofNat _ _, hbit, ZMEN_setFlags36 _ _, rfl, rfl, rfl, keeps_writeResult (operand_refl s) _ _ _⟩

theorem rotatesTo_doRol (acc : Acc) (s : State) :
    RotatesTo acc (BitVec.ofNat 36 ((getAcc acc s).toNat * 2 + if s.fl.c then 1 else 0))
      (2 ^ 35 ≤ (getAcc acc s).toNat) s (doRol acc s) := by
  unfold RotatesTo doRol
  rw [getAcc_writeResult, writeResult_fl]
  exact ⟨rotateLeft_eq_ofNat _ _, msb36_iff_toNat _, ZMEN_setFlags36 _ _, rfl, rfl, rfl,
    keeps_writeResult (operand_refl s) _ _ _⟩

/-- Settles O24: every form is `doShift`, `doRor` or `doRol` of its accumulator. -/
theorem shiftsAndRotates : Obligations.ShiftsAndRotates := by
  unfold Obligations.ShiftsAndRotates
  refine ⟨fun cc s hcc => ?_, fun cc s hcc => ?_⟩
  · have shift (acc : Acc) {n : Int} (hn : -36 ≤ n ∧ n ≤ 36) :
        Gives (whenCond cc s (.next (doShift acc n s))) (ShiftsTo acc (getAcc acc s) n [] s s) :=
      gives_whenCond hcc (shiftsTo_shiftInto (operand_refl s) acc _ hn.1 hn.2)
    exact ⟨fun a => ⟨shift _ (by decide), shift _ (by decide), shift _ (by decide), shift _ (by decide)⟩,
      fun b => ⟨shift _ (by decide), shift _ (by decide), shift _ (by decide), shift _ (by decide)⟩⟩
  · exact ⟨fun a => ⟨gives_whenCond hcc (rotatesTo_doRor _ s), gives_whenCond hcc (rotatesTo_doRol _ s)⟩,
      fun b => ⟨gives_whenCond hcc (rotatesTo_doRor _ s), gives_whenCond hcc (rotatesTo_doRol _ s)⟩⟩

/-- Settles O27: every form is `doAddTo` or `doSubTo` of its operands. -/
theorem negateRoundStep : Obligations.NegateRoundStep := by
  unfold Obligations.NegateRoundStep
  intro a s
  have hs := operand_refl s
  refine ⟨fun cc hcc => ⟨?_, ?_, ?_, ?_, ?_⟩, fun r hwf => ?_, indForm_of
    (g := fun v t => doAddTo (accOfA a) (sext36 v) roundBit t) (fun _ v _ h _ => ?_) (fun n v t => getRN_writeResult ..)
    fun _ _ => rfl⟩
  · exact gives_whenCond hcc (subs_doSubTo hs _ _ _)
  · exact gives_whenCond hcc (adds_doAddTo hs _ _ _)
  · exact gives_whenCond hcc (adds_doAddTo hs _ _ _)
  · exact gives_whenCond hcc (adds_doAddTo hs _ _ _)
  · exact gives_whenCond hcc (subs_doSubTo hs _ _ _)
  · have hr : ruleAlu36 a r = none := Option.isNone_iff_eq_none.1 hwf
    exact ⟨_, checkOperand_eq_next.2 ⟨hr, rfl⟩, adds_doAddTo (operand_readWide r s) _ _ _⟩
  · exact adds_doAddTo h _ _ _

end Sys2Proof.Machine
end

section
/-! Extrema, the 32-bit limit, and the swaps of accumulators. -/

namespace Sys2Proof.Machine

/-! ## max, maxd and min -/

/-- A post-modification reads its register, what steers it and the count of free values: in a state `u` that has them as
`t` has, it does the same as in `t`. -/
theorem postMod_of_same {n : RN} {t u : State} (m : PostMod) (d : Bool) (hreg : getRN n u = getRN n t)
    (hcfg : cfgOf n u = cfgOf n t) (hon : moduloOn n u = moduloOn n t) (hfree : u.freeCount = t.freeCount) :
    postMod n m d u = { setRN n (getRN n (postMod n m d t)) u with freeCount := (postMod n m d t).freeCount } := by
  have hkeep : u = { setRN n (getRN n t) u with freeCount := t.freeCount } := by
    rw [← hreg, ← hfree]
    cases n <;> rfl
  have hset (w : Word) : setRN n w u = { setRN n (getRN n (setRN n w t)) u with freeCount := (setRN n w t).freeCount } := by
    rw [getRN_setRN_same, setRN_freeCount, ← hfree]
    cases n <;> rfl
  unfold postMod
  dsimp only
  rw [hreg, hcfg, hon, hfree]
  split_ifs
  · exact hkeep
  · exact hkeep
  · exact hset _
  · rw [getRN_setRN_same, setRN_freeCount]
    cases n <;> rfl
  · exact hset _

section
variable (a : AccA) (v : Acc36) (m : PostMod)

/-- A new extremum: aX and mixp are written beside the post-modification of r0, which does not read them. -/
theorem latchExtreme_true (t : State) : latchExtreme true a v m t =
    { setAcc (accOfA a) v { postMod .r0 m false t with
        regs := { (postMod .r0 m false t).regs with mixp := t.regs.r0 } } with fl := { t.fl with m := true } } := by
  rw [postMod_of_same (t := t) m false rfl rfl rfl rfl, latchExtreme, if_pos rfl]
  cases a <;> exact postMod_of_same m false rfl rfl rfl rfl

theorem latchExtreme_false (t : State) : latchExtreme false a v m t =
    { postMod .r0 m false t with fl := { t.fl with m := false } } := by
  rw [postMod_of_same (t := t) m false rfl rfl rfl rfl, latchExtreme, if_neg Bool.false_ne_true]
  exact postMod_of_same m false rfl rfl rfl rfl

/-- From `s` to `u`, with the operand read in `t`: the extremum `v` is taken when it has won, else only M is cleared, and
r0 is post-modified (R232 to R234). -/
def TakesExtreme (won : Prop) (s t u : State) : Prop :=
  (won → getAcc (accOfA a) u = v ∧ u.regs.mixp = s.regs.r0 ∧ u.fl = { s.fl with m := true }) ∧
    (¬won → getAcc (accOfA a) u = getAcc (accOfA a) s ∧ u.regs.mixp = s.regs.mixp ∧ u.fl = { s.fl with m := false }) ∧
    u.regs.r0 = (postMod .r0 m false t).regs.r0 ∧
    Keeps [.acc (accOfA a), .mixp, .rn .r0] s (postMod .r0 m false t) u

theorem takesExtreme_latchExtreme {s t : State} {take : Bool} {won : Prop} (h : Operand [] s t)
    (hwon : take = true ↔ won) : TakesExtreme a v m won s t (latchExtreme take a v m t) := by
  have hr0 : t.regs.r0 = s.regs.r0 := BitVec.eq_of_toNat_eq (h.regs (.rn .r0) (by simp))
  have hp : Operand [.rn .r0] s (postMod .r0 m false t) := operand_trans h (operand_postMod .r0 m false t)
  rw [TakesExtreme, ← hwon]
  cases take
  · rw [latchExtreme_false, h.fl]
    refine ⟨nofun, fun _ => ⟨?_, ?_, rfl⟩, rfl, keeps_mono (keeps_flags hp _) (by simp)⟩
    · exact getAcc_of_operand hp (by simp) (accOfA a)
    · exact BitVec.eq_of_toNat_eq (hp.regs .mixp (by simp))
  · have hmixp : Operand [.rn .r0, .mixp] s { postMod .r0 m false t with
        regs := { (postMod .r0 m false t).regs with mixp := t.regs.r0 } } :=
      operand_trans hp ⟨fun q hq => by cases q <;> first | exact absurd (List.mem_singleton.2 rfl) hq | rfl, rfl, rfl,
        sameSystem_refl _, sameMemory_refl _⟩
    rw [latchExtreme_true, h.fl, hr0]
    rw [hr0] at hmixp
    refine ⟨fun _ => ⟨getAcc_setAcc_same .., ?_, rfl⟩, fun hn => absurd rfl hn, ?_,
      keeps_mono (keeps_setAcc hmixp _ _ _) (by simp)⟩
    · cases a <;> rfl
    · cases a <;> rfl

end

theorem beatsMax_iff (strict : Bool) (x y : Acc36) :
    beatsMax strict x y = true ↔ if strict then y.toInt < x.toInt else y.toInt ≤ x.toInt := by
  cases strict <;> simp [beatsMax]

/-- maxd compares with the word at r0. -/
theorem exec_maxd_of_reads (a : AccA) (strict : Bool) (m : PostMod) {v : Word} {s t : State}
    (ht : Reads s.regs.r0 s v t) : exec (.maxd a strict m) s =
      .next (latchExtreme (beatsMax strict (sext36 v) (getAcc (accOfA a) t)) a (sext36 v) m t) := by
  have hexec : exec (.maxd a strict m) s = execMaxd a strict m s := rfl
  rw [hexec, execMaxd, withLongDirect, ht, andThen_next]

/-! ## The limit to 32 bits -/

theorem toInt_limit32 (v : Acc36) : (limit32 v).toInt = max (-2 ^ 31) (min (2 ^ 31 - 1) v.toInt) := by
  unfold limit32
  split
  · rw [show (0x07FFFFFFF#36 : Acc36).toInt = 2 ^ 31 - 1 by decide]
    omega
  · split
    · rw [show (0xF80000000#36 : Acc36).toInt = -2 ^ 31 by decide]
      omega
    · omega

theorem limit32_ne_iff (v : Acc36) : (limit32 v != v) = true ↔ v.toInt < -2 ^ 31 ∨ 2 ^ 31 ≤ v.toInt := by
  rw [bne_iff_ne, ne_eq, ← BitVec.toInt_inj, toInt_limit32]
  omega

/-- The flags of lim (R215): the limited value fits 32 bits, so E is clear. -/
theorem ZMEN_setFlagsLim (v : Acc36) (f : Flags) : ZMEN (limit32 v) (setFlagsLim v f) := by
  obtain ⟨hz, hm, -, hn⟩ := ZMEN_setFlags36 (limit32 v) f
  refine ⟨hz, hm, ⟨nofun, fun h => absurd ?_ h⟩, hn⟩
  rw [toInt_limit32]
  omega

/-- Settles O30: the extrema are `latchExtreme` on the comparison, lim is `limit32`. -/
theorem extremaLimits : Obligations.ExtremaLimits := by
  unfold Obligations.ExtremaLimits
  refine ⟨fun a strict m s => ?_, fun src dst s => ?_⟩
  · intro x other takes
    have hother : getAcc (accOfA (otherA a)) s = other := by cases a <;> rfl
    refine ⟨⟨_, rfl, ?_⟩, ⟨_, rfl, ?_⟩, fun v t ht => ?_⟩
    · rw [hother]
      exact takesExtreme_latchExtreme a other m (operand_refl s) (beatsMax_iff ..)
    · rw [hother]
      exact takesExtreme_latchExtreme a other m (operand_refl s) (beatsMax_iff ..)
    · have hop := operand_read ht
      have hx : getAcc (accOfA a) t = x := getAcc_of_operand hop (by simp) (accOfA a)
      have hv : (sext36 v).toInt = v.toInt := BitVec.toInt_signExtend_of_le (by decide)
      refine ⟨_, exec_maxd_of_reads a strict m ht, ?_⟩
      rw [hx]
      exact takesExtreme_latchExtreme a (sext36 v) m hop (by rw [beatsMax_iff, hv])
  · refine ⟨_, rfl, ?_⟩
    dsimp only
    rw [getAcc_writeResult, writeResult_fl]
    refine ⟨toInt_limit32 _, ZMEN_setFlagsLim _ _, rfl, ?_, rfl, rfl, rfl, keeps_writeResult (operand_refl s) _ _ _⟩
    rw [← limit32_ne_iff, ← Bool.or_eq_true]
    rfl

/-! ## swap -/

/-- A swap changes the four accumulators only. -/
theorem swapAccs_frame (o : SwapOpt) (s : State) : swapAccs o s = { s with regs := { s.regs with
    a0 := (swapAccs o s).regs.a0, a1 := (swapAccs o s).regs.a1
    b0 := (swapAccs o s).regs.b0, b1 := (swapAccs o s).regs.b1 } } := by
  cases o <;> rfl

theorem operand_swapAccs (o : SwapOpt) (s : State) :
    Operand [.acc .a0, .acc .a1, .acc .b0, .acc .b1] s (swapAccs o s) := by
  rw [swapAccs_frame]
  refine ⟨fun q hq => ?_, rfl, rfl, sameSystem_refl s, sameMemory_refl s⟩
  cases q with
  | acc a => cases a <;> simp at hq
  | rn n => cases n <;> rfl
  | _ => rfl

theorem keeps_swapAccs (o : SwapOpt) (s : State) (f : Flags) :
    Keeps [.acc .a0, .acc .a1, .acc .b0, .acc .b1] s s { swapAccs o s with fl := f } := by
  obtain ⟨hregs, hpc, hsystem, hmemory, -⟩ := keeps_flags (operand_swapAccs o s) f
  refine ⟨hregs, hpc, hsystem, hmemory, ?_⟩
  rw [swapAccs_frame]
  exact sameDevices_refl s

/-- Settles O45: the transfers of each option, evaluated on the old values. -/
theorem swaps : Obligations.Swaps := by
  unfold Obligations.Swaps
  intro opt s
  have hfl : (swapAccs opt s).fl = s.fl := (operand_swapAccs opt s).fl
  have hflags := ZMEN_setFlags36 (getAcc (swapFlagAcc opt) (swapAccs opt s)) (swapAccs opt s).fl
  have hkeeps := keeps_swapAccs opt s (setFlags36 (getAcc (swapFlagAcc opt) (swapAccs opt s)) (swapAccs opt s).fl)
  cases opt <;> exact ⟨_, rfl, rfl, hflags, ⟨rfl, rfl, rfl, rfl⟩, hkeeps⟩

end Sys2Proof.Machine
end

section
/-! Logic on one accumulator, the normalization step and the division step. -/

namespace Sys2Proof.Machine

/-! ## Results on some of the bits, as numbers -/

theorem zextShort_eq_zext36 (v : BitVec 8) : zextShort v = zext36 (BitVec.ofNat 16 v.toNat) := by
  apply BitVec.eq_of_toNat_eq
  rw [zextShort, zext36, BitVec.toNat_setWidth, BitVec.toNat_setWidth, BitVec.toNat_ofNat]
  have := v.isLt
  omega

/-- The 16-bit result of and (R209). -/
theorem and16_eq_ofNat (x : Acc36) (v : Word) :
    zext36 (halfOf .lo x &&& v) = BitVec.ofNat 36 (x.toNat % 65536 &&& v.toNat) := by
  rw [zext36_eq_ofNat, BitVec.toNat_and, toNat_halfOf, if_pos rfl]
  rfl

/-- The 8-bit result of and (R209). -/
theorem toNat_and8 (x : Acc36) (v : BitVec 8) : (x.extractLsb' 0 8 &&& v).toNat = x.toNat % 256 &&& v.toNat := by
  rw [BitVec.toNat_and, BitVec.extractLsb'_toNat, Nat.shiftRight_zero]

/-- What and with an 8-bit immediate leaves in the accumulator (R209, D19). -/
theorem and8_eq_ofNat (x : Acc36) (v : BitVec 8) : zext36 (x.extractLsb' 8 8 ++ (x.extractLsb' 0 8 &&& v)) =
    BitVec.ofNat 36 (x.toNat / 256 % 256 * 256 + (x.toNat % 256 &&& v.toNat)) := by
  rw [zext36_eq_ofNat, toNat_append_eq_add, toNat_and8, BitVec.extractLsb'_toNat, Nat.shiftRight_eq_div_pow]
  rfl

/-! ## The logic operations -/

section
variable {ch : List Place} {s t : State}

/-- A result with the flags Z, M, E, N of `w` (R180). -/
theorem logic_writeResult (h : Operand ch s t) (acc : Acc) {v v' w w' : Acc36} (hv : v = v') (hw : w = w') :
    Logic acc v' w' ch s t (writeResult acc v (setFlags36 w) t) := by
  subst hv hw
  rw [Logic, getAcc_writeResult, writeResult_fl, h.fl]
  exact ⟨rfl, ZMEN_setFlags36 w s.fl, ⟨rfl, rfl, rfl, rfl⟩, keeps_writeResult h _ _ _⟩

/-- The same for a result computed from the accumulator that reading the operand has left. -/
theorem logic_writeResult_of_getAcc (h : Operand ch s t) (hch : ∀ a, Place.acc a ∉ ch) (acc : Acc) (f : Acc36 → Acc36)
    {v' : Acc36} (hv : f (getAcc acc s) = v') :
    Logic acc v' v' ch s t (writeResult acc (f (getAcc acc t)) (setFlags36 (f (getAcc acc t))) t) := by
  have hx : f (getAcc acc t) = v' := by rw [getAcc_of_operand h hch, hv]
  exact logic_writeResult h acc hx hx

end

section
variable (a : AccA) (s : State)

theorem onOperand_doOr : OnOperand s (fun ch v t u =>
    Logic (accOfA a) (getAcc (accOfA a) s ||| BitVec.ofNat 36 v.toNat)
      (getAcc (accOfA a) s ||| BitVec.ofNat 36 v.toNat) ch s t u) fun v t => doOr a (zext36 v) t := fun _ v _ h hch =>
  logic_writeResult_of_getAcc h hch _ (· ||| zext36 v) (by rw [zext36_eq_ofNat])

theorem onOperand_doXor : OnOperand s (fun ch v t u =>
    Logic (accOfA a) (getAcc (accOfA a) s ^^^ BitVec.ofNat 36 v.toNat)
      (getAcc (accOfA a) s ^^^ BitVec.ofNat 36 v.toNat) ch s t u) fun v t => doXor a (zext36 v) t := fun _ v _ h hch =>
  logic_writeResult_of_getAcc h hch _ (· ^^^ zext36 v) (by rw [zext36_eq_ofNat])

theorem onOperand_doAnd16 : OnOperand s (fun ch v t u =>
    Logic (accOfA a) (BitVec.ofNat 36 ((getAcc (accOfA a) s).toNat % 65536 &&& v.toNat))
      (BitVec.ofNat 36 ((getAcc (accOfA a) s).toNat % 65536 &&& v.toNat)) ch s t u) fun v t => doAnd16 a v t :=
  fun _ v _ h hch => logic_writeResult_of_getAcc h hch _ (fun x => zext36 (halfOf .lo x &&& v)) (and16_eq_ofNat _ v)

end

/-- The 36-bit reading of a register for logic leaves what a 16-bit one does. -/
theorem operand_readWideLogic (r : Reg) (s : State) : Operand [] s (readWideLogic r s).2 := by
  unfold readWideLogic
  split
  case h_4 => exact operand_readReg r s
  all_goals exact operand_refl s

/-- An accumulator or p as an operand: reading it touches nothing. -/
theorem readWideLogic_wide {r : Reg} {s : State} (h : isWide r = true) : (readWideLogic r s).2 = s := by
  cases r with
  | a0 | a1 | p => rfl
  | _ => cases h

/-- A well-formed instruction answers what it does after its operand check. -/
theorem gives_of_wf {i : Instr} {s u : State} {P : State → Prop} (hwf : i.wf = true)
    (he : exec i s = checkOperand (operandRule i) (.next u)) (hu : P u) : Gives (exec i s) P :=
  ⟨u, he.trans (checkOperand_eq_next.2 ⟨Option.isNone_iff_eq_none.1 hwf, rfl⟩), hu⟩

theorem doAndReg_narrow (a : AccA) {r : Reg} (s : State) (h : isWide r = false) :
    doAndReg a r s = doAnd16 a (readReg r s).1 (readReg r s).2 := if_neg (by simp [h])

theorem doAndReg_wide (a : AccA) {r : Reg} (s : State) (h : isWide r = true) :
    doAndReg a r s = doAnd36 a (readWideLogic r s).1 s := by
  rw [doAndReg, if_pos h, readWideLogic_wide h]

/-- Settles O22: every form is `doOr`, `doXor` or one of the three widths of and, on its operand. -/
theorem logicForms : Obligations.LogicForms := by
  unfold Obligations.LogicForms
  refine ⟨fun a s => ?_, fun a s => ?_⟩
  · have hor := onOperand_doOr a s
    have hxor := onOperand_doXor a s
    refine ⟨directForm_of hor fun _ => rfl, indForm_of hor (fun _ _ _ => getRN_writeResult ..) fun _ _ => rfl,
      longDirectForm_of hor fun _ => rfl, rbShortForm_of hor fun _ => rfl, rbLongForm_of hor fun _ => rfl,
      fun v => ⟨_, rfl, hor [] v s (operand_refl s) (by simp)⟩, fun v => ⟨doOr a (zextShort v) s, rfl, ?_⟩,
      fun r hwf => ?_,
      directForm_of hxor fun _ => rfl, indForm_of hxor (fun _ _ _ => getRN_writeResult ..) fun _ _ => rfl,
      longDirectForm_of hxor fun _ => rfl, rbShortForm_of hxor fun _ => rfl, rbLongForm_of hxor fun _ => rfl,
      fun v => ⟨_, rfl, hxor [] v s (operand_refl s) (by simp)⟩, fun v => ⟨doXor a (zextShort v) s, rfl, ?_⟩,
      fun r hwf => ?_⟩
    · rw [zextShort_eq_zext36]
      exact hor [] _ s (operand_refl s) (by simp)
    · exact gives_of_wf hwf rfl
        (logic_writeResult_of_getAcc (operand_readWideLogic r s) (by simp) _ (· ||| (readWideLogic r s).1) rfl)
    · rw [zextShort_eq_zext36]
      exact hxor [] _ s (operand_refl s) (by simp)
    · exact gives_of_wf hwf rfl
        (logic_writeResult_of_getAcc (operand_readWideLogic r s) (by simp) _ (· ^^^ (readWideLogic r s).1) rfl)
  · have hand := onOperand_doAnd16 a s
    refine ⟨directForm_of hand fun _ => rfl, indForm_of hand (fun _ _ _ => getRN_writeResult ..) fun _ _ => rfl,
      longDirectForm_of hand fun _ => rfl, rbShortForm_of hand fun _ => rfl, rbLongForm_of hand fun _ => rfl,
      fun v => ⟨_, rfl, hand [] v s (operand_refl s) (by simp)⟩, fun v => ⟨doAnd8 a v s, rfl, ?_⟩,
      fun r hwf hwide => ?_, fun r hwf hwide => ?_⟩
    · refine logic_writeResult (operand_refl s) _ (and8_eq_ofNat _ v) ?_
      rw [zextShort_eq_ofNat, toNat_and8]
    · refine gives_of_wf (u := doAndReg a r s) hwf rfl ?_
      rw [doAndReg_narrow a s hwide]
      exact hand [] _ _ (operand_readReg r s) (by simp)
    · refine gives_of_wf (u := doAndReg a r s) hwf rfl ?_
      rw [doAndReg_wide a s hwide]
      exact logic_writeResult (operand_refl s) _ rfl rfl

/-! ## norm -/

/-- A post-modification and the write of a result do not meet. -/
theorem postMod_writeResult (n : RN) (m : PostMod) (d : Bool) (acc : Acc) (v : Acc36) (f : Flags → Flags) (s : State) :
    postMod n m d (writeResult acc v f s) = writeResult acc v f (postMod n m d s) := by
  have hsame := postMod_of_same (n := n) (t := s) (u := writeResult acc v f s) m d (getRN_writeResult ..)
    (by cases acc <;> rfl) (by cases acc <;> rfl) (by cases acc <;> rfl)
  have hframe := postMod_frame n m d s
  generalize postMod n m d s = p at hsame hframe
  rw [hsame, hframe]
  cases acc <;> cases n <;> rfl

/-- Doubling overflows when the two highest bits differ (R241, R276). -/
theorem doubleOverflow_iff (v : Acc36) : (v.msb != v.getLsbD 34) = true ↔ ¬Fits36 (v.toInt * 2) := by
  rw [bne_iff_ne, ne_eq, Bool.eq_iff_iff, msb36_iff_toNat, getLsbD36_iff, Fits36, toInt36_eq]
  have := v.isLt
  split <;> omega

theorem double_eq_ofInt (v : Acc36) : v <<< 1 = BitVec.ofInt 36 (v.toInt * 2) := shiftLeft_eq_ofInt v 1

theorem doNorm_of_normalized (a : AccA) (n : RN) (m : PostMod) {s : State} (h : s.fl.n = true) : doNorm a n m s = s :=
  if_pos h

/-- The step that is taken: aX doubled beside the post-modification of rN, and R from the new rN. -/
theorem doNorm_step (a : AccA) (n : RN) (m : PostMod) {s : State} (h : s.fl.n = false) :
    doNorm a n m s = writeResult (accOfA a) (getAcc (accOfA a) s <<< 1)
      (fun f => { setFlagsArith (getAcc (accOfA a) s <<< 1) (getAcc (accOfA a) s).msb
        ((getAcc (accOfA a) s).msb != (getAcc (accOfA a) s).getLsbD 34) f with
        r := getRN n (postMod n m false s) == 0 }) (postMod n m false s) := by
  rw [doNorm, if_neg (by simp [h])]
  dsimp only
  rw [postMod_writeResult, getRN_writeResult]
  simp only [writeResult, setAcc_with_fl]
  rfl

/-! ## divs -/

/-- The divisor at its weight (R214). -/
theorem divisor_eq_ofInt (d : Word) : sext36 d <<< 15 = BitVec.ofInt 36 (d.toInt * 2 ^ 15) := by
  rw [shiftLeft_eq_ofInt, sext36, BitVec.toInt_signExtend_of_le (by decide)]

/-- The difference a division step looks at. -/
def divDifference (x : Acc36) (d : Word) : Acc36 := x - (sext36 d <<< 15)

/-- What a division step makes of the accumulator, by the sign of the difference (R214). -/
def divStep (x : Acc36) (d : Word) : Acc36 :=
  if (divDifference x d).msb then x <<< 1 else (divDifference x d <<< 1) + 1

theorem doDivs_eq (a : AccA) (d : Word) (s : State) : doDivs a d s =
    writeResult (accOfA a) (divStep (getAcc (accOfA a) s) d) (setFlags36 (divStep (getAcc (accOfA a) s) d)) s := rfl

theorem divDifference_eq_ofInt (x : Acc36) (d : Word) :
    divDifference x d = BitVec.ofInt 36 (x.toInt - d.toInt * 2 ^ 15) := by
  rw [divDifference, divisor_eq_ofInt, sub_eq_ofInt]
  apply BitVec.eq_of_toInt_eq
  rw [BitVec.toInt_ofInt, BitVec.toInt_ofInt, BitVec.toInt_ofInt, Int.sub_bmod_bmod]

theorem divStep_eq_ofInt (x : Acc36) (d : Word) : divStep x d = BitVec.ofInt 36
    (if (divDifference x d).toInt < 0 then x.toInt * 2 else (divDifference x d).toInt * 2 + 1) := by
  unfold divStep
  by_cases hneg : (divDifference x d).toInt < 0
  · rw [if_pos ((msb36_iff _).2 hneg), if_pos hneg, double_eq_ofInt]
  · rw [if_neg (mt (msb36_iff _).1 hneg), if_neg hneg, double_eq_ofInt, BitVec.ofInt_add]
    rfl

/-- Settles O29: norm by `doNorm_step`, divs by `divStep_eq_ofInt`. -/
theorem normalizeDivideSteps : Obligations.NormalizeDivideSteps := by
  unfold Obligations.NormalizeDivideSteps
  refine ⟨fun a n m s => ⟨fun hn => ?_, fun hn => ⟨doNorm a n m s, rfl, ?_⟩⟩, fun a s => ?_⟩
  · exact congrArg Host.Outcome.next (doNorm_of_normalized a n m hn)
  · have hstepped := operand_postMod n m false s
    dsimp only
    rw [doNorm_step a n m hn, getRN_writeResult, getAcc_writeResult, writeResult_fl, postMod_fl]
    refine ⟨double_eq_ofInt _, ?_, rfl, ?_, keeps_writeResult hstepped _ _ _⟩
    · exact ArithFlags_setFlagsArith s.fl (msb36_iff_toNat _) (doubleOverflow_iff _)
    · rw [beq_iff_eq, ← BitVec.toNat_inj]
      rfl
  · refine directForm_of (g := fun v t => doDivs a v t) (fun ch v t h hch => ?_) fun _ => rfl
    dsimp only
    rw [doDivs_eq, ← divDifference_eq_ofInt]
    exact logic_writeResult_of_getAcc h hch _ (divStep · v) (divStep_eq_ofInt _ v)

end Sys2Proof.Machine
end

section
/-! The shifts by sv and by an immediate, and the functions that set one accumulator. -/

namespace Sys2Proof.Machine

/-! ## Shifts by any amount -/

section
variable {ch : List Place} {s t : State}

/-- Out of range the result, C and V are the free values next in the count (U7, log 7). -/
theorem shiftInto_out_of_range (acc : Acc) (v : Acc36) {n : Int} (hn : ¬(-36 ≤ n ∧ n ≤ 36)) (t : State) :
    shiftInto acc v n t = writeResult acc (Config.freeAcc t.freeCount)
      (setFlagsShift t.md.s (Config.freeAcc t.freeCount) (Config.freeBit t.freeCount)
        (Config.freeBit (t.freeCount + 1)))
      { t with freeCount := t.freeCount + 2 } :=
  if_neg (by simpa [shiftInRange] using hn)

/-- In both modes Z, M, E and N describe the result and R is kept (R241, R242). -/
theorem setFlagsShift_common (logical : Bool) (r : Acc36) (c v : Bool) (f : Flags) :
    ZMEN r (setFlagsShift logical r c v f) ∧ (setFlagsShift logical r c v f).r = f.r := by
  cases logical <;> exact ⟨ZMEN_setFlags36 _ _, rfl⟩

/-- A result of the shifter that the spec leaves free, beside any count of free values (U7, log 7). -/
theorem shiftsFree_writeResult (h : Operand ch s t) (acc : Acc) (r : Acc36) (c v : Bool) (k : Nat) :
    ShiftsFree acc ch s t (writeResult acc r (setFlagsShift t.md.s r c v) { t with freeCount := k }) := by
  have hmode : s.md = t.md := h.system.1.symm
  have hcounted : Operand ch s { t with freeCount := k } := by
    simpa using operand_trans h (operand_devices t t.codec t.ocem t.extLog k)
  obtain ⟨hregs, hpc, hsystem, hmemory, hcodec, hocem, hext, -⟩ :=
    keeps_writeResult hcounted acc r (setFlagsShift t.md.s r c v)
  obtain ⟨hZMEN, hR⟩ := setFlagsShift_common t.md.s r c v t.fl
  rw [ShiftsFree, hmode, getAcc_writeResult, writeResult_fl, ← h.fl]
  refine ⟨hZMEN, hR, ?_, hregs, hpc, hsystem, hmemory, hcodec, hocem, hext⟩
  cases t.md.s
  · rfl
  · exact ⟨rfl, rfl⟩

/-- A shift by any amount, of a value read from an operand or an accumulator. -/
theorem shiftsBy_shiftInto (h : Operand ch s t) (acc : Acc) (v : Acc36) (n : Int) :
    ShiftsBy acc v n ch s t (shiftInto acc v n t) := by
  unfold ShiftsBy
  split
  case isTrue hn => exact shiftsTo_shiftInto h acc v hn.1 hn.2
  case isFalse hn =>
    rw [shiftInto_out_of_range acc v hn]
    exact shiftsFree_writeResult h acc _ _ _ _

end

/-- movs, with the amount that sv has before the operand is read. -/
theorem onOperand_shiftInto (s : State) (acc : Acc) (n : Int) :
    OnOperand s (fun ch v t u => ShiftsBy acc (BitVec.ofInt 36 v.toInt) n ch s t u)
      fun v t => shiftInto acc (sext36 v) n t :=
  fun _ _ _ h _ => shiftsBy_shiftInto h acc _ n

theorem getRN_shiftInto (n : RN) (acc : Acc) (v : Acc36) (k : Int) (t : State) :
    getRN n (shiftInto acc v k t) = getRN n t := by
  unfold shiftInto
  split
  · exact getRN_writeResult ..
  · rw [getRN_writeResult]
    cases n <;> rfl

/-! ## Reading the operand leaves sv -/

theorem andThen_congr {α β : Type} {r : Res α} {f g : α → Res β} (h : ∀ x, r = .next x → f x = g x) :
    andThen r f = andThen r g := by
  cases r with
  | next x => exact h x rfl
  | fault _ | refused _ => rfl

theorem sv_of_operand {ch : List Place} {s t : State} (h : Operand ch s t) (hsv : Place.sv ∉ ch) :
    t.regs.sv = s.regs.sv :=
  BitVec.eq_of_toNat_eq (h.regs .sv hsv)

section
variable (acc : Acc) (s : State)

theorem execMovsDirect_eq (d : BitVec 8) : execMovsDirect d acc s =
    withDirect d s fun v t => .next (shiftInto acc (sext36 v) s.regs.sv.toInt t) :=
  andThen_congr fun q hq => by
    dsimp only
    rw [sv_of_operand (operand_read hq) (by simp)]

theorem execMovsInd_eq (n : RN) (m : PostMod) : execMovsInd n m acc s =
    withInd n m s fun v t => .next (shiftInto acc (sext36 v) s.regs.sv.toInt t) :=
  andThen_congr fun q hq => by
    dsimp only
    rw [sv_of_operand (operand_ind hq).1 (by simp)]

theorem execMovsReg_eq (r : Reg) : execMovsReg r acc s =
    checkOperand (rule16 r) (withReg r s fun v t => .next (shiftInto acc (sext36 v) s.regs.sv.toInt t)) := by
  unfold execMovsReg withReg
  dsimp only
  rw [sv_of_operand (operand_readReg r s) (by simp)]

end

/-- Settles O25: every form is `shiftInto` of its operand; an immediate is never out of range. -/
theorem variableShifts : Obligations.VariableShifts := by
  unfold Obligations.VariableShifts
  intro dst s
  have hs := operand_refl s
  have movs := onOperand_shiftInto s dst s.regs.sv.toInt
  refine ⟨fun src cc hcc => gives_whenCond hcc (shiftsBy_shiftInto hs dst _ _), fun src v => ⟨_, rfl, ?_⟩,
    directForm_of movs (execMovsDirect_eq dst s), indForm_of movs (fun n _ t => getRN_shiftInto n dst _ _ t)
      (execMovsInd_eq dst s), regForm_of movs (fun _ => rfl) (execMovsReg_eq dst s), fun n v => ⟨_, rfl, ?_⟩⟩
  · have hlow := BitVec.le_toInt v
    have hhigh := BitVec.toInt_lt (x := v)
    exact shiftsTo_shiftInto hs dst _ (by omega) (by omega)
  · have hlow := BitVec.le_toInt v
    have hhigh := BitVec.toInt_lt (x := v)
    have hreg : (readReg (regOfStar n) s).1 = regValue (regOfStar n) s := by cases n <;> rfl
    rw [hreg]
    exact shiftsTo_shiftInto hs dst _ (by omega) (by omega)

/-! ## clr, not, clrr and copy -/

theorem logic_doSet (acc : Acc) {v w : Acc36} (s : State) (hv : v = w) : Logic acc w w [] s s (doSet acc v s) :=
  logic_writeResult (operand_refl s) acc hv hv

theorem not_eq_ofInt (x : Acc36) : ~~~x = BitVec.ofInt 36 (-1 - x.toInt) := by
  rw [← BitVec.allOnes_sub_eq_not, sub_eq_ofInt]
  rfl

/-- The default of COPY_SOURCE (D20, log 5). -/
theorem copyValue_eq (a : AccA) (s : State) : copyValue a s = getAcc (accOfA a) s := rfl

/-- Settles O26: every form is `doSet` of its value. -/
theorem clearComplementCopy : Obligations.ClearComplementCopy := by
  unfold Obligations.ClearComplementCopy
  intro cc s hcc
  refine ⟨fun a => ⟨?_, ?_, ?_, ?_⟩, fun b => ?_⟩
  · exact gives_whenCond hcc (logic_doSet _ s rfl)
  · exact gives_whenCond hcc (logic_doSet _ s (not_eq_ofInt _))
  · exact gives_whenCond hcc (logic_doSet _ s rfl)
  · exact gives_whenCond hcc (logic_doSet _ s (copyValue_eq a s))
  · exact gives_whenCond hcc (logic_doSet _ s rfl)

end Sys2Proof.Machine
end

section
/-! The exponent: what exp writes into sv and into an accumulator. -/

namespace Sys2Proof.Machine

/-! ## The number -/

/-- `e` is the exponent of `v`, -4 to 31 (R275). -/
def IsExponent (v e : Int) : Prop :=
  -4 ≤ e ∧ e ≤ 31 ∧ -(2 ^ (31 - e).toNat) ≤ v ∧ v < 2 ^ (31 - e).toNat ∧
    (e = 31 ∨ ¬(-(2 ^ (30 - e).toNat) ≤ v ∧ v < 2 ^ (30 - e).toNat))

theorem isExponent_exponent (v : Acc36) : IsExponent v.toInt (exponent v) := exponent_spec v

/-- The exponent is a signed 6-bit value: sv holds it unchanged. -/
theorem toInt_ofInt_exponent (v : Acc36) : (BitVec.ofInt 16 (exponent v)).toInt = exponent v := by
  obtain ⟨hlow, hhigh, -⟩ := isExponent_exponent v
  exact BitVec.toInt_ofInt_eq_self (by decide) (by omega) (by omega)

/-- A 16-bit operand stands in bits 31 to 16. -/
theorem toInt_expOperand (w : Word) : (expOperand w).toInt = w.toInt * 65536 := by
  have hlow := BitVec.le_toInt w
  have hhigh := BitVec.toInt_lt (x := w)
  rw [expOperand, accOfHalf_hi_eq_ofInt]
  exact BitVec.toInt_ofInt_eq_self (by decide) (by omega) (by omega)

/-! ## The operation -/

/-- From `s` to `u`, with `t` after the operand was read: sv, and aX in the accumulator form, take the exponent of the
number `v`; no flag changes. -/
def TakesExponent (s : State) (dst : Option AccA) (v : Int) (ch : List Place) (t u : State) : Prop :=
  IsExponent v u.regs.sv.toInt ∧ u.fl = s.fl ∧
    match dst with
    | none => Keeps (.sv :: ch) s t u
    | some a => getAcc (accOfA a) u = BitVec.ofInt 36 u.regs.sv.toInt ∧ Keeps (.sv :: .acc (accOfA a) :: ch) s t u

section
variable {ch : List Place} {s t : State}

/-- Writing sv is a change of one register outside the system state. -/
theorem operand_writeSv (h : Operand ch s t) (w : Word) :
    Operand (.sv :: ch) s { t with regs := { t.regs with sv := w } } := by
  refine ⟨fun q hq => ?_, h.pc, h.fl, h.system, h.memory⟩
  simp only [List.mem_cons, not_or] at hq
  obtain ⟨hsv, hch⟩ := hq
  rw [← h.regs q hch]
  cases q with
  | sv => exact absurd rfl hsv
  | acc a => cases a <;> rfl
  | rn n => cases n <;> rfl
  | _ => rfl

@[simp] theorem setAcc_sv (a : Acc) (v : Acc36) (s : State) : (setAcc a v s).regs.sv = s.regs.sv := by cases a <;> rfl

@[simp] theorem doExp_sv (v : Acc36) (dst : Option AccA) (s : State) :
    (doExp v dst s).regs.sv = BitVec.ofInt 16 (exponent v) := by
  cases dst with
  | none => rfl
  | some a => exact setAcc_sv ..

@[simp] theorem doExp_fl (v : Acc36) (dst : Option AccA) (s : State) : (doExp v dst s).fl = s.fl := by
  cases dst with
  | none => rfl
  | some a => exact setAcc_fl ..

@[simp] theorem getRN_doExp (n : RN) (v : Acc36) (dst : Option AccA) (s : State) :
    getRN n (doExp v dst s) = getRN n s := by
  cases dst with
  | none => cases n <;> rfl
  | some a =>
    rw [doExp, getRN_setAcc]
    cases n <;> rfl

theorem takesExponent_doExp (h : Operand ch s t) (dst : Option AccA) {v : Acc36} {z : Int} (hv : v.toInt = z) :
    TakesExponent s dst z ch t (doExp v dst t) := by
  subst hv
  unfold TakesExponent
  rw [doExp_sv, doExp_fl, h.fl, toInt_ofInt_exponent]
  have hwrite := operand_writeSv h (BitVec.ofInt 16 (exponent v))
  refine ⟨isExponent_exponent v, rfl, ?_⟩
  cases dst with
  | none => exact ⟨hwrite.regs, hwrite.pc, hwrite.system, hwrite.memory, sameDevices_refl t⟩
  | some a =>
    exact ⟨getAcc_setAcc_same .., keeps_mono (keeps_writeResult hwrite (accOfA a) _ id) (by simp +contextual)⟩

end

/-- A register of 16 bits as the operand of exp. -/
theorem expReg36_narrow {r : Reg} (s : State) (h : isWide r = false) :
    expReg36 r s = (expOperand (readReg r s).1, (readReg r s).2) := by
  cases r with
  | a0 | a1 => cases h
  | _ => rfl

/-- Settles O28: every form is `doExp` of its operand. -/
theorem exponents : Obligations.Exponents := by
  unfold Obligations.Exponents
  intro s isExp takes dst
  have hs := operand_refl s
  have takes_of {v ch t u} : TakesExponent s dst v ch t u → takes dst v ch t u := by cases dst <;> exact id
  refine ⟨indForm_of (g := fun v t => doExp (expOperand v) dst t) (fun ch v t h _ => ?_)
    (fun n v t => getRN_doExp n _ dst t) fun _ _ => rfl, fun b => ⟨_, rfl, ?_⟩, ⟨_, rfl, ?_⟩, ⟨_, rfl, ?_⟩,
    fun r hwf hwide => gives_of_wf hwf rfl ?_⟩
  · exact takes_of (takesExponent_doExp h dst (toInt_expOperand v))
  · exact takes_of (takesExponent_doExp hs dst rfl)
  · exact takes_of (takesExponent_doExp hs dst rfl)
  · exact takes_of (takesExponent_doExp hs dst rfl)
  · rw [expReg36_narrow s hwide]
    exact takes_of (takesExponent_doExp (operand_readReg r s) dst (toInt_expOperand _))

end Sys2Proof.Machine
end

section
/-! Multiplication: what an operand's reading leaves of the product, one lemma for each operation, one for each operand
form, and the statements put together from them. -/

namespace Sys2Proof.Machine

/-! ## Reading operands leaves the factors and the previous product -/

/-- The registers that the addressing of an operand changes are address registers. -/
def OnlyPointers (ch : List Place) : Prop := ∀ q ∈ ch, ∃ n, q = .rn n

theorem onlyPointers_nil : OnlyPointers [] := nofun

theorem acc_notMem_of_onlyPointers {ch : List Place} (hch : OnlyPointers ch) (a : Acc) : Place.acc a ∉ ch :=
  fun ha => nomatch hch (.acc a) ha

theorem ofBool_append_inj {w : Nat} {a b : Bool} {x y : BitVec w} :
    BitVec.ofBool a ++ x = BitVec.ofBool b ++ y ↔ a = b ∧ x = y := by
  refine ⟨fun h => ⟨?_, ?_⟩, by rintro ⟨rfl, rfl⟩; rfl⟩
  · simpa [BitVec.msb_append] using congrArg BitVec.msb h
  · simpa [BitVec.setWidth_append_eq_right] using congrArg (BitVec.setWidth w) h

section
variable {ch : List Place} {s t : State}

theorem y_of_operand (h : Operand ch s t) (hch : OnlyPointers ch) : t.regs.y = s.regs.y :=
  BitVec.eq_of_toNat_eq (h.regs .y fun hy => nomatch hch .y hy)

/-- `Place.value` gives p and its unsigned mark as one number. -/
theorem product_of_operand (h : Operand ch s t) (hch : OnlyPointers ch) :
    t.regs.pUnsigned = s.regs.pUnsigned ∧ t.regs.p = s.regs.p :=
  ofBool_append_inj.1 (BitVec.eq_of_toNat_eq (h.regs .p fun hp => nomatch hch .p hp))

theorem shiftedP_of_operand (h : Operand ch s t) (hch : OnlyPointers ch) : shiftedP t = shiftedP s := by
  obtain ⟨hmark, hp⟩ := product_of_operand h hch
  have hmode : t.md = s.md := h.system.1
  rw [shiftedP, shiftedP, hp, hmark, hmode]

/-- R187 on the number: the 16 low bits are cut off. -/
theorem alignedShiftedP_eq_ofInt (s : State) :
    alignedShiftedP s = BitVec.ofInt 36 ((shiftedP s).toInt / 65536) := sshiftRight_eq_ofInt _ 16

theorem alignedShiftedP_of_operand (h : Operand ch s t) (hch : OnlyPointers ch) :
    alignedShiftedP t = alignedShiftedP s := by
  rw [alignedShiftedP, shiftedP_of_operand h hch, alignedShiftedP]

/-- Reading the X operand post-modifies rI and touches the devices at most. -/
theorem operand_readX {k : RI} {m : PostMod} {v : Word} (h : readX k m s = .next (v, t)) :
    Operand [.rn (rnOfI k)] s t := by
  rw [readX_eq] at h
  split at h
  · obtain ⟨-, rfl⟩ := Prod.mk.inj (Host.Outcome.next.inj h)
    exact operand_trans (operand_postMod _ m false s) (operand_devices _ _ _ _ _)
  · exact operand_trans (operand_postMod _ m false s) (operand_read h)

end

/-! ## The operations -/

section
variable {ch : List Place} {s t u : State}

theorem product_multiply (ys xs : Bool) (y x : Word) (s : State) : Product ys xs y x (multiply ys xs y x s) :=
  ⟨rfl, rfl, rfl, rfl⟩

theorem getAcc_multiply (a : Acc) (ys xs : Bool) (y x : Word) (s : State) :
    getAcc a (multiply ys xs y x s) = getAcc a s := by cases a <;> rfl

theorem getRN_multiply (n : RN) (ys xs : Bool) (y x : Word) (s : State) :
    getRN n (multiply ys xs y x s) = getRN n s := by cases n <;> rfl

/-- A multiplication after a change of `acc` changes y, x and p besides. -/
theorem keeps_acc_multiply {acc : Acc} (h : Keeps (.acc acc :: ch) s t u) (ys xs : Bool) (y x : Word) :
    Keeps (.acc acc :: .y :: .x :: .p :: ch) s t (multiply ys xs y x u) :=
  keeps_mono (keeps_multiply h ys xs y x) (by simp +contextual)

/-- A multiplication leaves the sum before it, and its flags. -/
theorem adds_multiply {acc : Acc} {v b : Acc36} (h : Adds acc v b ch s t u) (ys xs : Bool) (y x : Word) :
    Adds acc v b (.y :: .x :: .p :: ch) s t (multiply ys xs y x u) := by
  obtain ⟨hsum, hflags, hkeeps⟩ := h
  rw [Adds, getAcc_multiply]
  exact ⟨hsum, hflags, keeps_acc_multiply hkeeps ys xs y x⟩

/-- A multiplication leaves the difference before it, and its flags. -/
theorem subs_multiply {acc : Acc} {v b : Acc36} (h : Subs acc v b ch s t u) (ys xs : Bool) (y x : Word) :
    Subs acc v b (.y :: .x :: .p :: ch) s t (multiply ys xs y x u) := by
  obtain ⟨hdiff, hflags, hkeeps⟩ := h
  rw [Subs, getAcc_multiply]
  exact ⟨hdiff, hflags, keeps_acc_multiply hkeeps ys xs y x⟩

theorem doMac_eq (a : AccA) (b : Acc36) (ys xs : Bool) (y x : Word) (s : State) :
    doMac a b ys xs y x s = multiply ys xs y x (doAdd a b s) := rfl

theorem doMsu_eq (a : AccA) (y x : Word) (s : State) :
    doMsu a y x s = multiply true true y x (doSub a (shiftedP s) s) := rfl

end

/-! ## Operand forms: where the factors come from -/

/-- What an instruction makes of one operand, read without touching more than address registers: `P` holds of it, and
the address registers stay as the reading left them. -/
structure OnWord (s : State) (P : List Place → Word → State → State → Prop) (g : Word → State → State) : Prop where
  spec : ∀ ch v t, Operand ch s t → OnlyPointers ch → P ch v t (g v t)
  pointers : ∀ n v t, getRN n (g v t) = getRN n t

/-- The same for the two factors of a multiplication, y first. -/
structure OnFactors (s : State) (P : List Place → Word → Word → State → State → Prop)
    (g : Word → Word → State → State) : Prop where
  spec : ∀ ch y x t, Operand ch s t → OnlyPointers ch → P ch y x t (g y x t)
  pointers : ∀ n y x t, getRN n (g y x t) = getRN n t

namespace OnWord

variable {s : State} {P : List Place → Word → State → State → Prop} {g : Word → State → State}

theorem onOperand (hg : OnWord s P g) : OnOperand s (fun ch v t u => OnlyPointers ch → P ch v t u) g :=
  fun ch v t h _ => hg.spec ch v t h

theorem directForm {i : BitVec 8 → Instr} (hg : OnWord s P g)
    (he : ∀ d, exec (i d) s = withDirect d s fun v t => .next (g v t)) : DirectForm i s P := by
  intro d v t hr
  obtain ⟨u, hexec, hu⟩ := directForm_of hg.onOperand he d v t hr
  exact ⟨u, hexec, hu onlyPointers_nil⟩

theorem indForm {i : RN → PostMod → Instr} (hg : OnWord s P g)
    (he : ∀ n m, exec (i n m) s = withInd n m s fun v t => .next (g v t)) : IndForm i s P := by
  intro n m v t hr
  obtain ⟨u, hexec, hu, hstep⟩ := indForm_of hg.onOperand hg.pointers he n m v t hr
  exact ⟨u, hexec, hu (by simp [OnlyPointers]), hstep⟩

theorem regForm {i : Reg → Instr} (hg : OnWord s P g) (ho : ∀ r, operandRule (i r) = rule16 r)
    (he : ∀ r, exec (i r) s = checkOperand (rule16 r) (withReg r s fun v t => .next (g v t))) : RegForm i s P := by
  intro r hwf
  obtain ⟨u, hexec, hu⟩ := regForm_of hg.onOperand ho he r hwf
  exact ⟨u, hexec, hu onlyPointers_nil⟩

end OnWord

namespace OnFactors

variable {s : State} {P : List Place → Word → Word → State → State → Prop} {g : Word → Word → State → State}

/-- `MUL y, operand2`: the first factor is the y before the instruction (R291). -/
theorem timesY (hg : OnFactors s P g) :
    OnWord s (fun ch v t u => P ch s.regs.y v t u) fun v t => g t.regs.y v t where
  spec ch v t h hch := by
    rw [← y_of_operand h hch]
    exact hg.spec ch t.regs.y v t h hch
  pointers n v t := hg.pointers n t.regs.y v t

/-- `MUL (rN), ##long` (R291). -/
theorem timesLong (hg : OnFactors s P g) (x : Word) : OnWord s (fun ch v t u => P ch v x t u) fun v t => g v x t where
  spec ch v t := hg.spec ch v x t
  pointers n v t := hg.pointers n v x t

/-- The operand as both factors. -/
theorem squared (hg : OnFactors s P g) : OnWord s (fun ch v t u => P ch v v t u) fun v t => g v v t where
  spec ch v t := hg.spec ch v v t
  pointers n v t := hg.pointers n v v t

/-- `MUL (rJ), (rI)` (R93, R291). -/
theorem dualForm {i : RJ → PostMod → RI → PostMod → Instr} (hg : OnFactors s P g)
    (he : ∀ j mj k mk, exec (i j mj k mk) s = withDual j mj k mk s fun y x t => .next (g y x t)) : DualForm i s P := by
  intro j mj k mk y t1 x t hy hx
  have hop : Operand [.rn (rnOfJ j), .rn (rnOfI k)] s t := operand_trans (operand_readY hy).1 (operand_readX hx)
  refine ⟨g y x t, ?_, hg.spec _ y x t hop (by simp [OnlyPointers]), hg.pointers _ y x t, hg.pointers _ y x t⟩
  rw [he, withDual, hy, andThen_next, hx, andThen_next]

end OnFactors

/-! ## The operations on two factors -/

/-- A multiplication alone sets no flag (R290). -/
theorem onFactors_multiply (s : State) (ys xs : Bool) :
    OnFactors s (fun ch y x t u => Product ys xs y x u ∧ u.fl = s.fl ∧ Keeps (.y :: .x :: .p :: ch) s t u)
      fun y x t => multiply ys xs y x t where
  spec _ y x t h _ := ⟨product_multiply ys xs y x t, h.fl, keeps_multiply (keeps_flags h t.fl) ys xs y x⟩
  pointers n y x t := getRN_multiply n ys xs y x t

section
variable (a : AccA) (s : State)

/-- The product that is added, `b`, is the one before the instruction, since reading the operands leaves it. -/
theorem onFactors_doMac {b : State → Acc36} {c : Acc36} (ys xs : Bool)
    (hb : ∀ ch t, Operand ch s t → OnlyPointers ch → b t = c) :
    OnFactors s (fun ch y x t u => Product ys xs y x u ∧
        Adds (accOfA a) (getAcc (accOfA a) s) c (.y :: .x :: .p :: ch) s t u)
      fun y x t => doMac a (b t) ys xs y x t where
  spec ch y x t h hch := by
    rw [doMac_eq]
    exact ⟨product_multiply .., adds_multiply (adds_doAdd a (hb ch t h hch) h (acc_notMem_of_onlyPointers hch)) ..⟩
  pointers n y x t := by rw [doMac_eq, getRN_multiply, getRN_doAdd]

theorem onFactors_doMac_shifted (ys xs : Bool) :
    OnFactors s (fun ch y x t u => Product ys xs y x u ∧
        Adds (accOfA a) (getAcc (accOfA a) s) (shiftedP s) (.y :: .x :: .p :: ch) s t u)
      fun y x t => doMac a (shiftedP t) ys xs y x t :=
  onFactors_doMac a s ys xs fun _ _ => shiftedP_of_operand

theorem onFactors_doMac_aligned (ys xs : Bool) :
    OnFactors s (fun ch y x t u => Product ys xs y x u ∧ Adds (accOfA a) (getAcc (accOfA a) s)
        (BitVec.ofInt 36 ((shiftedP s).toInt / 65536)) (.y :: .x :: .p :: ch) s t u)
      fun y x t => doMac a (alignedShiftedP t) ys xs y x t :=
  onFactors_doMac a s ys xs fun _ _ h hch => (alignedShiftedP_of_operand h hch).trans (alignedShiftedP_eq_ofInt s)

theorem onFactors_doMsu :
    OnFactors s (fun ch y x t u => Product true true y x u ∧
        Subs (accOfA a) (getAcc (accOfA a) s) (shiftedP s) (.y :: .x :: .p :: ch) s t u)
      fun y x t => doMsu a y x t where
  spec ch y x t h hch := by
    rw [doMsu_eq]
    exact ⟨product_multiply .., subs_multiply
      (subs_doSub a (shiftedP_of_operand h hch) h (acc_notMem_of_onlyPointers hch)) ..⟩
  pointers n y x t := by rw [doMsu_eq, getRN_multiply, getRN_doSub]

end

/-! ## The statements -/

/-- Settles O31: every form is `multiply` of its two factors. -/
theorem multiplyForms : Obligations.MultiplyForms := by
  unfold Obligations.MultiplyForms
  intro s
  have ss := onFactors_multiply s true true
  have su := onFactors_multiply s true false
  exact ⟨ss.timesY.directForm fun _ => rfl, ss.timesY.indForm fun _ _ => rfl,
    ss.timesY.regForm (fun _ => rfl) fun _ => rfl, ss.dualForm fun _ _ _ _ => rfl,
    fun v => (ss.timesLong v).indForm fun _ _ => rfl,
    su.timesY.indForm fun _ _ => rfl, su.timesY.regForm (fun _ => rfl) fun _ => rfl, su.dualForm fun _ _ _ _ => rfl,
    fun v => (su.timesLong v).indForm fun _ _ => rfl,
    fun v => ⟨_, rfl, ss.spec [] s.regs.y _ s (operand_refl s) onlyPointers_nil⟩,
    ss.squared.directForm fun _ => rfl, ss.squared.indForm fun _ _ => rfl,
    ss.squared.regForm (fun _ => rfl) fun _ => rfl⟩

/-- Settles O32: every form is `doMac` of its two factors and the previous product. -/
theorem multiplyAccumulateForms : Obligations.MultiplyAccumulateForms := by
  unfold Obligations.MultiplyAccumulateForms
  intro a s
  have ss := onFactors_doMac_shifted a s true true
  have su := onFactors_doMac_shifted a s true false
  have us := onFactors_doMac_shifted a s false true
  have uu := onFactors_doMac_shifted a s false false
  exact ⟨ss.timesY.directForm fun _ => rfl, ss.timesY.indForm fun _ _ => rfl,
    ss.timesY.regForm (fun _ => rfl) fun _ => rfl, ss.dualForm fun _ _ _ _ => rfl,
    fun v => (ss.timesLong v).indForm fun _ _ => rfl,
    su.timesY.directForm fun _ => rfl, su.timesY.indForm fun _ _ => rfl,
    su.timesY.regForm (fun _ => rfl) fun _ => rfl, su.dualForm fun _ _ _ _ => rfl,
    fun v => (su.timesLong v).indForm fun _ _ => rfl,
    us.timesY.indForm fun _ _ => rfl, us.timesY.regForm (fun _ => rfl) fun _ => rfl, us.dualForm fun _ _ _ _ => rfl,
    fun v => (us.timesLong v).indForm fun _ _ => rfl,
    uu.timesY.indForm fun _ _ => rfl, uu.timesY.regForm (fun _ => rfl) fun _ => rfl, uu.dualForm fun _ _ _ _ => rfl,
    fun v => (uu.timesLong v).indForm fun _ _ => rfl⟩

/-- Settles O33: maa and maasu are `doMac` with the aligned product, sqra is `doMac` of one operand, msu is `doMsu`. -/
theorem alignedSubtractSquareForms : Obligations.AlignedSubtractSquareForms := by
  unfold Obligations.AlignedSubtractSquareForms
  intro a s
  have maa := onFactors_doMac_aligned a s true true
  have maasu := onFactors_doMac_aligned a s true false
  have msu := onFactors_doMsu a s
  have sqra := (onFactors_doMac_shifted a s true true).squared
  exact ⟨maa.timesY.directForm fun _ => rfl, maa.timesY.indForm fun _ _ => rfl,
    maa.timesY.regForm (fun _ => rfl) fun _ => rfl, maa.dualForm fun _ _ _ _ => rfl,
    fun v => (maa.timesLong v).indForm fun _ _ => rfl,
    maasu.timesY.indForm fun _ _ => rfl, maasu.timesY.regForm (fun _ => rfl) fun _ => rfl,
    maasu.dualForm fun _ _ _ _ => rfl, fun v => (maasu.timesLong v).indForm fun _ _ => rfl,
    msu.timesY.directForm fun _ => rfl, msu.timesY.indForm fun _ _ => rfl,
    msu.timesY.regForm (fun _ => rfl) fun _ => rfl, msu.dualForm fun _ _ _ _ => rfl,
    fun v => (msu.timesLong v).indForm fun _ _ => rfl,
    sqra.directForm fun _ => rfl, sqra.indForm fun _ _ => rfl, sqra.regForm (fun _ => rfl) fun _ => rfl⟩

end Sys2Proof.Machine
end

section
/-! Bit fields: one reading and replacing of a word in memory, the same of a register, and the tests of the bits of an
operand. -/

namespace Sys2Proof.Machine

/-! ## The operations on a word -/

/-- On the word `v` and the flags `fl`, the operation with result `f` and flags `g` computes `r`, with C as `carry`. -/
def Computes (fl : Flags) (v : Word) (f : Word → Word) (g : Word → Flags → Flags) (r : Word) (carry : Prop) : Prop :=
  f v = r ∧ Flags16 r carry fl (g v fl)

section
variable (imm v : Word) (fl : Flags)

/-- set, rst and chng keep C (R321 to R324). -/
theorem computes_logic (f : Word → Word) :
    Computes fl v f (fun w => setFlags16 (f w)) (f v) (fl.c = true) := ⟨rfl, Flags16_setFlags16 (f v) fl⟩

theorem computes_addv : Computes fl v (· + imm) (fun w => setFlagsAddv w imm) (BitVec.ofNat 16 (v.toNat + imm.toNat))
    (2 ^ 16 ≤ v.toNat + imm.toNat) :=
  ⟨by rw [BitVec.ofNat_add, BitVec.ofNat_toNat, BitVec.ofNat_toNat, BitVec.setWidth_eq, BitVec.setWidth_eq],
    Flags16_setFlagsAddv v imm fl⟩

theorem computes_subv : Computes fl v (· - imm) (fun w => setFlagsSubv w imm) (BitVec.ofInt 16 (v.toNat - imm.toNat))
    (v.toNat < imm.toNat) := by
  refine ⟨BitVec.eq_of_toNat_eq ?_, Flags16_setFlagsSubv v imm fl⟩
  rw [BitVec.toNat_ofInt, BitVec.toNat_sub]
  have := v.isLt
  have := imm.isLt
  omega

end

/-! ## A word of memory -/

/-- The word at `a` read in `s` and replaced: what both memory forms do once they have their address. -/
def replaceWord (f : Word → Word) (g : Word → Flags → Flags) (a : Word) (s : State) : Res State :=
  andThen (dataRead a s) fun q => andThen (dataWrite a (f q.1) q.2) fun t => .next { t with fl := g q.1 t.fl }

theorem albDirect_eq (f : Word → Word) (g : Word → Flags → Flags) (d : BitVec 8) (s : State) :
    albDirect f g d s = replaceWord f g (directAddr d s) s := rfl

theorem albInd_eq (f : Word → Word) (g : Word → Flags → Flags) (n : RN) (m : PostMod) (s : State) :
    albInd f g n m s = replaceWord f g (getRN n s) (postMod n m false s) := rfl

section
variable {f : Word → Word} {g : Word → Flags → Flags} {a v r : Word} {carry : Prop} {ch : List Place} {s q t w : State}

/-- `q` is `s` with the address register stepped; the result is stored where the word was read (R320, R321). -/
theorem replaceWord_stores (hc : Computes s.fl v f g r carry) (hq : Operand ch s q) (hdata : q.data = s.data)
    (hprog : q.prog = s.prog) (hr : Reads a q v t) (hw : dataWrite a r t = .next w) :
    Gives (replaceWord f g a q) fun u => Flags16 r carry s.fl u.fl ∧ u.regs = q.regs ∧
      Stored a r ch s s w { u with fl := s.fl } := by
  obtain ⟨rfl, hflags⟩ := hc
  have ht : Operand (ch ++ []) s t := operand_trans hq (operand_read hr)
  rw [List.append_nil] at ht
  obtain ⟨-, -, hwfl, -, -⟩ := dataWrite_keeps hw
  have hfl : w.fl = s.fl := hwfl.trans ht.fl
  have hregs : w.regs = q.regs := (congrArg (·.regs) (dataWrite_frame hw).1).trans (readsRegs hr)
  have htdata : t.data = s.data := (congrArg (·.data) (dataRead_frame hr)).trans hdata
  have htprog : t.prog = s.prog := (congrArg (·.prog) (dataRead_frame hr)).trans hprog
  refine ⟨{ w with fl := g v w.fl }, by rw [replaceWord, hr, andThen_next, hw, andThen_next], hfl ▸ hflags, hregs, ?_⟩
  rw [← hfl]
  exact stored_of_dataWrite hw ht.regs ht.pc ht.fl ht.system htdata htprog

end

/-- Settles O35: each operation is `replaceWord` at its address. -/
theorem bitFieldMemory : Obligations.BitFieldMemory := by
  unfold Obligations.BitFieldMemory
  intro imm s ops op hop
  have replaces : ∃ f g, (∀ d, exec (op.1 d) s = albDirect f g d s) ∧ (∀ n m, exec (op.2.1 n m) s = albInd f g n m s) ∧
      ∀ v, Computes s.fl v f g (op.2.2.1 v) (op.2.2.2 v) := by
    simp only [ops, List.mem_cons, List.not_mem_nil, or_false] at hop
    rcases hop with rfl | rfl | rfl | rfl | rfl
    · exact ⟨(· ||| imm), fun w => setFlags16 (w ||| imm), fun _ => rfl, fun _ _ => rfl,
        fun v => computes_logic v s.fl _⟩
    · exact ⟨(· &&& ~~~imm), fun w => setFlags16 (w &&& ~~~imm), fun _ => rfl, fun _ _ => rfl,
        fun v => computes_logic v s.fl _⟩
    · exact ⟨(· ^^^ imm), fun w => setFlags16 (w ^^^ imm), fun _ => rfl, fun _ _ => rfl,
        fun v => computes_logic v s.fl _⟩
    · exact ⟨(· + imm), fun w => setFlagsAddv w imm, fun _ => rfl, fun _ _ => rfl, fun v => computes_addv imm v s.fl⟩
    · exact ⟨(· - imm), fun w => setFlagsSubv w imm, fun _ => rfl, fun _ _ => rfl, fun v => computes_subv imm v s.fl⟩
  obtain ⟨f, g, hdirect, hind, hcomputes⟩ := replaces
  refine ⟨fun d v t w hr hw => ?_, fun n m v t w hr hw => ?_⟩
  · rw [hdirect, albDirect_eq]
    obtain ⟨u, hu, hflags, -, hstored⟩ := replaceWord_stores (hcomputes v) (operand_refl s) rfl rfl hr hw
    exact ⟨u, hu, hflags, hstored⟩
  · rw [hind, albInd_eq]
    obtain ⟨u, hu, hflags, hregs, hstored⟩ :=
      replaceWord_stores (hcomputes v) (operand_postMod n m false s) (postMod_data ..) (postMod_prog ..) hr hw
    exact ⟨u, hu, hflags, getRN_of_regs hregs n, hstored⟩

/-! ## A register -/

/-- The half replaced and the rest of the accumulator kept, as numbers (R320). -/
theorem toNat_withHalf (h : Half) (v : Word) (x : Acc36) : (withHalf h v x).toNat =
    if h = .lo then x.toNat / 2 ^ 16 * 2 ^ 16 + v.toNat
    else x.toNat / 2 ^ 32 * 2 ^ 32 + v.toNat * 2 ^ 16 + x.toNat % 2 ^ 16 := by
  have := x.isLt
  cases h with
  | lo =>
    rw [withHalf, toNat_append_eq_add, BitVec.extractLsb'_toNat, Nat.shiftRight_eq_div_pow, if_pos rfl]
    omega
  | hi =>
    rw [withHalf, toNat_append_eq_add, toNat_append_eq_add, BitVec.extractLsb'_toNat, BitVec.extractLsb'_toNat,
      Nat.shiftRight_eq_div_pow, Nat.shiftRight_zero, if_neg nofun]
    omega

/-- Only st0 holds flags. -/
theorem writeReg_fl {r : Reg} (hr : r ≠ .st0) (v : Word) (t : State) : (writeReg r v t).fl = t.fl := by
  cases r with
  | st0 => exact absurd rfl hr
  | ext0 | ext1 | ext2 | ext3 => exact congrArg (·.fl) (ocemExtWatch_frame 5 _)
  | _ => rfl

theorem accOfReg_eq_none {r : Reg} (hnarrow : isWide r = false) (hr : halfOfReg r = none) : accOfReg r = none := by
  cases r with
  | a0 | a1 => cases hnarrow
  | a0l | a0h | a1l | a1h | b0l | b0h | b1l | b1h => cases hr
  | _ => rfl

section
variable {f : Word → Word} {g : Word → Flags → Flags} {w : Word} {carry : Prop} {r : Reg} {s : State}

/-- st0 takes the result with its flags, which no other update follows (R320, R331). -/
theorem albReg_st0 (hc : Computes s.fl (readReg .st0 s).1 f g w carry) :
    RegTakes TakesOnly .st0 w [] s s (albReg f g .st0 s) := by
  obtain ⟨rfl, -⟩ := hc
  exact regTakes_writeReg (operand_refl s) rfl _ TakesOnly

/-- The write of any other register leaves the flags to the operation. -/
theorem albReg_plain (hc : Computes s.fl (readReg r s).1 f g w carry) (hst0 : r ≠ .st0) (hhalf : halfOfReg r = none)
    (hnarrow : isWide r = false) : Flags16 w carry s.fl (albReg f g r s).fl ∧
      RegTakes TakesOnly r w [] s (readReg r s).2 { albReg f g r s with fl := s.fl } := by
  obtain ⟨rfl, hflags⟩ := hc
  have hop := operand_readReg r s
  have hfl := (writeReg_fl hst0 (f (readReg r s).1) (readReg r s).2).trans hop.fl
  have heq : albReg f g r s = { writeReg r (f (readReg r s).1) (readReg r s).2 with fl := g (readReg r s).1 s.fl } := by
    rw [← hfl, albReg, writeRegPart, hhalf]
    exact if_neg (by simpa using hst0)
  rw [heq]
  refine ⟨hflags, ?_⟩
  dsimp only
  rw [← hfl]
  exact regTakes_writeReg hop (accOfReg_eq_none hnarrow hhalf) _ TakesOnly

/-- Of an accumulator half only that half changes (R320). -/
theorem albReg_half {a : Acc} {h : Half} (hc : Computes s.fl (readReg r s).1 f g w carry)
    (hhalf : halfOfReg r = some (a, h)) :
    albReg f g r s = { setAcc a (withHalf h w (getAcc a s)) s with fl := g (readReg r s).1 s.fl } := by
  obtain ⟨rfl, -⟩ := hc
  have hst0 : r ≠ .st0 := by
    rintro rfl
    cases hhalf
  have hread : (readReg r s).2 = s := by
    cases r with
    | ext0 | ext1 | ext2 | ext3 => cases hhalf
    | _ => rfl
  rw [albReg, writeRegPart, hhalf, hread]
  dsimp only
  rw [if_neg (by simpa using hst0), setAcc_fl]

end

theorem ruleAddv_wide {r : Reg} (h : isWide r = true) : ruleAddv r = some .excluded := if_pos (by rw [h]; rfl)

/-- Settles O36: each operation is `albReg` of its register, by the kind of the register. -/
theorem bitFieldRegister : Obligations.BitFieldRegister := by
  unfold Obligations.BitFieldRegister
  intro imm r s v t ops op hop hwf
  have replaces : ∃ f g, exec op.1 s = checkOperand (operandRule op.1) (.next (albReg f g r s)) ∧
      Computes s.fl v f g op.2.1 op.2.2 ∧ (isWide r = true → operandRule op.1 = some .excluded) := by
    simp only [ops, List.mem_cons, List.not_mem_nil, or_false] at hop
    rcases hop with rfl | rfl | rfl | rfl | rfl
    · exact ⟨_, _, rfl, computes_logic v s.fl (· ||| imm), rule16_wide⟩
    · exact ⟨_, _, rfl, computes_logic v s.fl (· &&& ~~~imm), rule16_wide⟩
    · exact ⟨_, _, rfl, computes_logic v s.fl (· ^^^ imm), rule16_wide⟩
    · exact ⟨_, _, rfl, computes_addv imm v s.fl, ruleAddv_wide⟩
    · exact ⟨_, _, rfl, computes_subv imm v s.fl, ruleAddv_wide⟩
  obtain ⟨f, g, hexec, hcomputes, hwide⟩ := replaces
  refine ⟨?_, fun hst0 hhalf => ?_, fun a h hhalf => ?_⟩
  · rintro rfl
    exact gives_of_wf hwf hexec (albReg_st0 hcomputes)
  · have hnarrow : isWide r = false := by
      by_contra hr
      rw [Instr.wf, hwide (by simpa using hr)] at hwf
      cases hwf
    exact gives_of_wf hwf hexec (albReg_plain hcomputes hst0 hhalf hnarrow)
  · rw [albReg_half hcomputes hhalf] at hexec
    refine gives_of_wf hwf hexec ⟨hcomputes.2, ?_, keeps_setAcc (operand_refl s) a _ _⟩
    have hacc : getAcc a { setAcc a (withHalf h op.2.1 (getAcc a s)) s with fl := g v s.fl } =
        withHalf h op.2.1 (getAcc a s) := by
      rw [← setAcc_with_fl, getAcc_setAcc_same]
    exact (congrArg BitVec.toNat hacc).trans (toNat_withHalf ..)

/-! ## Tests of a word -/

/-- Z tells whether `p` holds, and no other flag changes. -/
def SetsZ (s : State) (p : Prop) (ch : List Place) (t u : State) : Prop :=
  (u.fl.z = true ↔ p) ∧ u.fl = { s.fl with z := u.fl.z } ∧ Keeps ch s t u

/-- Every bit of `v` at a place of the mask is `b`. -/
def MaskedAre (b : Bool) (mask : Nat → Bool) (v : Word) : Prop := ∀ k < 16, mask k = true → v.getLsbD k = b

theorem and_eq_zero_iff_getLsbD (v m : Word) : v &&& m = 0 ↔ ∀ k < 16, m.getLsbD k = true → v.getLsbD k = false := by
  refine ⟨fun h k _ hm => ?_, fun h => BitVec.eq_of_getLsbD_eq fun k hk => ?_⟩
  · simpa [hm] using congrArg (·.getLsbD k) h
  · cases hm : m.getLsbD k with
    | false => simp [hm]
    | true => simp [hm, h k hk hm]

section
variable {m : Word} {mask : Nat → Bool} (hm : ∀ k < 16, m.getLsbD k = mask k)
include hm

/-- Z of tst0 (R328). -/
theorem tst0_iff (v : Word) : ((v &&& m) == 0) = true ↔ MaskedAre false mask v := by
  rw [beq_iff_eq, and_eq_zero_iff_getLsbD]
  exact forall₂_congr fun k hk => by rw [hm k hk]

/-- Z of tst1 (R329, D18). -/
theorem tst1_iff (v : Word) : ((~~~v &&& m) == 0) = true ↔ MaskedAre true mask v := by
  rw [beq_iff_eq, and_eq_zero_iff_getLsbD]
  exact forall₂_congr fun k hk => by
    rw [hm k hk, BitVec.getLsbD_not, decide_eq_true hk, Bool.true_and, Bool.not_eq_false']

end

/-- The low half of an accumulator as a mask (R328). -/
theorem getLsbD_maskOf (a : AccA) (s : State) : ∀ k < 16, (maskOf a s).getLsbD k = (getAcc (accOfA a) s).getLsbD k := by
  intro k hk
  rw [maskOf, halfOf, BitVec.getLsbD_extractLsb', Nat.zero_add, decide_eq_true hk, Bool.true_and]

theorem getRN_with_fl (n : RN) (t : State) (f : Flags) : getRN n { t with fl := f } = getRN n t := getRN_of_regs rfl n

section
variable {s : State}

theorem onOperand_setZ {z : Word → Bool} {p : Word → Prop} (hz : ∀ v, z v = true ↔ p v) :
    OnOperand s (fun ch v t u => SetsZ s (p v) ch t u) fun v t => { t with fl := { t.fl with z := z v } } :=
  fun _ v _ h _ => ⟨hz v, by simp only [h.fl], keeps_flags h _⟩

/-- cmpv sets the flags of subv (R327). -/
theorem onOperand_cmpv (imm : Word) : OnOperand s (fun ch v t u =>
      Flags16 (BitVec.ofInt 16 (v.toNat - imm.toNat)) (v.toNat < imm.toNat) s.fl u.fl ∧ Keeps ch s t u)
    fun v t => { t with fl := setFlagsSubv v imm t.fl } :=
  fun _ v _ h _ => ⟨h.fl ▸ Flags16_setFlagsSubv v imm _, keeps_flags h _⟩

end

/-- Settles O37: every form changes flags alone, by its operand. -/
theorem bitTests : Obligations.BitTests := by
  unfold Obligations.BitTests
  intro s
  have hn : ∀ (f : Word → Flags → Flags) n v (t : State), getRN n { t with fl := f v t.fl } = getRN n t :=
    fun _ n _ t => getRN_with_fl n t _
  refine ⟨fun a => ?_, fun imm => ?_, fun k => ?_⟩
  · have zeros := onOperand_setZ (s := s) (tst0_iff (getLsbD_maskOf a s))
    have ones := onOperand_setZ (s := s) (tst1_iff (getLsbD_maskOf a s))
    exact ⟨directForm_of zeros fun _ => rfl, indForm_of zeros (hn (flagsTst0 _)) fun _ _ => rfl,
      regForm_of zeros (fun _ => rfl) fun _ => rfl, directForm_of ones fun _ => rfl,
      indForm_of ones (hn (flagsTst1 _)) fun _ _ => rfl, regForm_of ones (fun _ => rfl) fun _ => rfl⟩
  · have zeros := onOperand_setZ (s := s) (tst0_iff (m := imm) fun _ _ => rfl)
    have ones := onOperand_setZ (s := s) (tst1_iff (m := imm) fun _ _ => rfl)
    have cmp := onOperand_cmpv (s := s) imm
    exact ⟨directForm_of zeros fun _ => rfl, indForm_of zeros (hn (flagsTst0 _)) fun _ _ => rfl,
      regForm_of zeros (fun _ => rfl) fun _ => rfl, directForm_of ones fun _ => rfl,
      indForm_of ones (hn (flagsTst1 _)) fun _ _ => rfl, regForm_of ones (fun _ => rfl) fun _ => rfl,
      directForm_of cmp fun _ => rfl, indForm_of cmp (hn fun v => setFlagsSubv v imm) fun _ _ => rfl,
      regForm_of cmp (fun _ => rfl) fun _ => rfl⟩
  · have bit := onOperand_setZ (s := s) (z := fun v => v.getLsbD k.toNat) fun _ => Iff.rfl
    exact ⟨directForm_of bit fun _ => rfl, indForm_of bit (hn (flagsTstb k)) fun _ _ => rfl,
      regForm_of bit (fun _ => rfl) fun _ => rfl⟩

end Sys2Proof.Machine
end

section
/-! Moves: what the limited reading of a source leaves, the two writes that set Z, M and N, and the statements put together
from them. -/

namespace Sys2Proof.Machine

/-! ## Sources of a move -/

/-- The flags are no part of what a register holds. -/
theorem value_with_fl (q : Place) (s : State) (f : Flags) : q.value { s with fl := f } = q.value s := by
  cases q <;> rfl

/-- Reading the source of a move took `s` to `t`: as `Operand`, but for the L that the limiter may set (R171). -/
def Source (ch : List Place) (s t : State) : Prop := Operand ch { s with fl := t.fl } t

section
variable {ch : List Place} {s t u : State}

theorem source_of_operand (h : Operand ch s t) : Source ch s t := by
  unfold Source
  rw [h.fl]
  exact h

theorem source_refl (s : State) : Source [] s s := operand_refl s

theorem source_readRegSat (r : Reg) (s : State) : Source [] s (readRegSat r s).2 := by
  obtain ⟨hregs, hpc, hsystem, hmemory, -⟩ := readRegSat_keeps r s
  exact ⟨fun q hq => (hregs q hq).trans (value_with_fl ..).symm, hpc, rfl, hsystem, hmemory⟩

theorem source_satRead (a : Acc) (h : Half) (s : State) : Source [] s (satRead a h s).2 := by
  rw [satRead_frame]
  exact operand_refl _

/-- A frame says nothing of the flags. -/
theorem keeps_of_with_fl {f : Flags} (h : Keeps ch { s with fl := f } t u) : Keeps ch s t u := by
  obtain ⟨hregs, hpc, hsystem, hmemory, hdevices⟩ := h
  exact ⟨fun q hq => (hregs q hq).trans (value_with_fl ..), hpc, hsystem, hmemory, hdevices⟩

theorem placeTakes_of_with_fl {q : Place} {v : Word} {f : Flags} (h : PlaceTakes q v ch { s with fl := f } t u) :
    PlaceTakes q v ch s t u := by
  obtain ⟨hvalue, hfl, hkeeps⟩ := h
  exact ⟨hvalue, hfl, keeps_of_with_fl hkeeps⟩

theorem regTakes_of_with_fl {eff : Acc → Acc36 → List Place → State → State → State → Prop} {r : Reg} {v : Word}
    {f : Flags} (hr : accOfReg r = none) (h : RegTakes eff r v ch { s with fl := f } t u) :
    RegTakes eff r v ch s t u := by
  cases r with
  | r0 | r1 | r2 | r3 | r4 | r5 | rb | y | sp | cfgi | cfgj | lc | sv => exact placeTakes_of_with_fl h
  | p =>
    obtain ⟨hp, hmark, hfl, hkeeps⟩ := h
    exact ⟨hp, hmark, hfl, keeps_of_with_fl hkeeps⟩
  | st0 | st1 | st2 | pc | ext0 | ext1 | ext2 | ext3 => exact h
  | _ => cases hr

/-! ## The writes of a move -/

/-- Z, M and N describe the new value, the other flags are those after the reading (R340). -/
theorem movesTo_moveToAcc (h : Source ch s t) (a : Acc) (w : Acc36) : MovesTo a w ch s t (moveToAcc a w t) := by
  obtain ⟨hvalue, hZMN, hVCLR, hkeeps⟩ := movesTo_setAcc h a w
  unfold moveToAcc
  dsimp only
  rw [setAcc_fl]
  exact ⟨hvalue, hZMN, hVCLR, keeps_of_with_fl hkeeps⟩

/-- A register that holds an accumulator is written as that accumulator is. -/
theorem moveToReg_acc {r : Reg} {a : Acc} {v : Word} {w : Acc36} (hr : accOfReg r = some a)
    (hw : writeReg r v t = setAcc a w t) : moveToReg r v t = moveToAcc a w t := by
  rw [moveToReg, hr, hw]
  dsimp only
  rw [getAcc_setAcc_same, moveToAcc]

theorem moveToReg_of_no_acc {r : Reg} (hr : accOfReg r = none) (v : Word) (t : State) :
    moveToReg r v t = writeReg r v t := by
  rw [moveToReg, hr]

theorem writeReg_takes (h : Source ch s t) {r : Reg} (hr : accOfReg r = none) (v : Word)
    (eff : Acc → Acc36 → List Place → State → State → State → Prop) : RegTakes eff r v ch s t (writeReg r v t) :=
  regTakes_of_with_fl hr (regTakes_writeReg h hr v eff)

theorem regTakes_moveToReg (h : Source ch s t) (r : Reg) (v : Word) :
    RegTakes MovesTo r v ch s t (moveToReg r v t) := by
  cases hr : accOfReg r with
  | none =>
    rw [moveToReg_of_no_acc hr]
    exact writeReg_takes h hr v MovesTo
  | some a =>
    obtain ⟨w, hw, htakes⟩ := writeReg_acc hr v
    rw [moveToReg_acc hr (hw t)]
    exact htakes _ _ _ _ _ (movesTo_moveToAcc h a w)

/-- A register outside the accumulators that alone shows the change from `t`. -/
theorem placeTakes_with_regs (h : Source ch s t) {q : Place} {v : Word} {g : Regs}
    (hv : q.value { t with regs := g } = v.toNat) (hg : ∀ k, k ≠ q → k.value { t with regs := g } = k.value t) :
    PlaceTakes q v ch s t { t with regs := g } :=
  ⟨hv, rfl, keeps_of_with_fl (keeps_with_regs h q hg)⟩

end

/-! ## What a move leaves of the address register it stepped -/

theorem getRN_moveToAcc (n : RN) (a : Acc) (w : Acc36) (t : State) : getRN n (moveToAcc a w t) = getRN n t :=
  (getRN_with_fl ..).trans (getRN_setAcc ..)

theorem getRN_writeReg {n : RN} {r : Reg} (hr : r ≠ regOfRN n) (v : Word) (t : State) :
    getRN n (writeReg r v t) = getRN n t := by
  cases r with
  | r0 | r1 | r2 | r3 | r4 | r5 => exact getRN_setRN_of_ne _ _ _ _ fun hn => hr (hn ▸ rfl)
  | ext0 | ext1 | ext2 | ext3 => exact getRN_of_regs (congrArg (·.regs) (ocemExtWatch_frame 5 _)) n
  | _ => cases n <;> rfl

theorem getRN_moveToReg {n : RN} {r : Reg} (hr : r ≠ regOfRN n) (v : Word) (t : State) :
    getRN n (moveToReg r v t) = getRN n t := by
  unfold moveToReg
  dsimp only
  split
  · exact (getRN_with_fl ..).trans (getRN_writeReg hr v t)
  · exact getRN_writeReg hr v t

/-! ## Moves into an accumulator -/

theorem onOperand_moveToAcc (s : State) (acc : Acc) {b c : Word → Acc36} (hb : ∀ v, b v = c v) :
    OnOperand s (fun ch v t u => MovesTo acc (c v) ch s t u) fun v t => moveToAcc acc (b v) t :=
  fun ch v t h _ => show MovesTo acc (c v) ch s t (moveToAcc acc (b v) t) from
    hb v ▸ movesTo_moveToAcc (source_of_operand h) acc (b v)

theorem moveToAcc_gives (s : State) (acc : Acc) {b c : Acc36} (hb : b = c) :
    Gives (.next (moveToAcc acc b s) : Res State) (MovesTo acc c [] s s) :=
  ⟨_, rfl, hb ▸ movesTo_moveToAcc (source_refl s) acc b⟩

/-- icr as a number, field by field (R62). -/
theorem toNat_icrImage (s : State) : (icrImage s).toNat = s.ctl.bc.toNat * 32 + s.ctl.lp.toNat * 16 +
    s.md.ic2.toNat * 8 + s.md.ic1.toNat * 4 + s.md.ic0.toNat * 2 + s.md.nmic.toNat := by
  simp only [icrImage, toNat_append_eq_add, BitVec.toNat_ofBool, BitVec.toNat_ofNat]
  omega

/-- The eight zeros on top leave nothing of the sign extension (R62, R367). -/
theorem sext36_icrImage (s : State) : sext36 (icrImage s) = BitVec.ofNat 36 (s.ctl.bc.toNat * 32 +
    s.ctl.lp.toNat * 16 + s.md.ic2.toNat * 8 + s.md.ic1.toNat * 4 + s.md.ic0.toNat * 2 + s.md.nmic.toNat) := by
  have hmsb : (icrImage s).msb = false := by
    simp only [icrImage, BitVec.msb_eq_getLsbD_last, BitVec.getLsbD_append]
    simp
  rw [← toNat_icrImage, ← zext36_eq_ofNat, sext36, BitVec.signExtend_eq_setWidth_of_msb_false hmsb, zext36]

/-- The extension nibble above a new high half and a cleared low half, as a number (R356). -/
theorem extension_high_eq_ofNat (x : Acc36) (v : Word) : (x.extractLsb' 32 4 ++ v ++ 0#16 : Acc36) =
    BitVec.ofNat 36 (x.toNat / 2 ^ 32 * 2 ^ 32 + v.toNat * 2 ^ 16) := by
  have := x.isLt
  have := v.isLt
  apply BitVec.eq_of_toNat_eq
  rw [toNat_append_eq_add, toNat_append_eq_add, BitVec.extractLsb'_toNat, Nat.shiftRight_eq_div_pow,
    BitVec.toNat_ofNat, BitVec.toNat_ofNat]
  omega

/-- mov direct, aXh, eu keeps the extension nibble from before the reading. -/
theorem onOperand_moveHighEu (s : State) (acc : Acc) :
    OnOperand s (fun ch v t u => MovesTo acc
        (BitVec.ofNat 36 ((getAcc acc s).toNat / 2 ^ 32 * 2 ^ 32 + v.toNat * 2 ^ 16)) ch s t u)
      fun v t => moveToAcc acc ((getAcc acc t).extractLsb' 32 4 ++ v ++ 0#16) t := by
  intro ch v t h hch
  rw [← extension_high_eq_ofNat, ← getAcc_of_operand h hch]
  exact movesTo_moveToAcc (source_of_operand h) acc _

theorem zextShort_eq_low (v : BitVec 8) : zextShort v = BitVec.ofNat 36 (BitVec.ofNat 16 v.toNat).toNat := by
  have := v.isLt
  rw [zextShort_eq_ofNat, BitVec.toNat_ofNat, Nat.mod_eq_of_lt (by omega)]

/-- Settles O38: every form is `moveToAcc` of its source. -/
theorem accumulatorLoads : Obligations.AccumulatorLoads := by
  unfold Obligations.AccumulatorLoads
  intro s
  dsimp only
  have word acc := onOperand_moveToAcc s acc sext36_eq_ofInt
  have low acc := onOperand_moveToAcc s acc zext36_eq_ofNat
  have high acc := onOperand_moveToAcc s acc accOfHalf_hi_eq_ofInt
  refine ⟨fun src dst => moveToAcc_gives s dst rfl, fun b r hwf => gives_of_wf hwf rfl ?_, fun acc => ?_, fun b => ?_,
    fun a => ?_⟩
  · exact movesTo_moveToAcc (source_readRegSat r s) (accOfB b) _
  · exact ⟨moveToAcc_gives s acc rfl, moveToAcc_gives s acc rfl, moveToAcc_gives s acc rfl,
      moveToAcc_gives s acc (sext36_icrImage s), directForm_of (word acc) fun _ => rfl,
      directForm_of (low acc) fun _ => rfl, directForm_of (high acc) fun _ => rfl⟩
  · exact ⟨indForm_of (word _) (fun n _ t => getRN_moveToAcc n _ _ t) fun _ _ => rfl,
      fun v => moveToAcc_gives s _ rfl⟩
  · exact ⟨longDirectForm_of (word _) fun _ => rfl, rbShortForm_of (word _) fun _ => rfl,
      rbLongForm_of (word _) fun _ => rfl, directForm_of (onOperand_moveHighEu s _) fun _ => rfl,
      fun v => ⟨moveToAcc_gives s _ (zextShort_eq_low v), moveToAcc_gives s _ (accOfHalf_hi_eq_ofInt _)⟩⟩

/-! ## Moves into a register -/

theorem exec_movRegReg {q : Reg} (hq : q ≠ .p) (r : Reg) (s : State) : exec (.movRegReg q r) s =
    checkOperand (ruleMovRegReg q r) (.next (moveToReg r (readRegSat q s).1 (readRegSat q s).2)) :=
  congrArg (checkOperand _) (if_neg (by simpa using hq))

/-- Settles O39: every form but mov p, aX is `moveToReg` of its source. -/
theorem registerMoves : Obligations.RegisterMoves := by
  unfold Obligations.RegisterMoves
  intro r s
  refine ⟨fun q hwf hq => gives_of_wf hwf (exec_movRegReg hq r s) ?_, moveToAcc_gives s .a0 rfl,
    moveToAcc_gives s .a1 rfl, ⟨_, rfl, ?_⟩, fun v => ⟨_, rfl, ?_⟩, fun v t hread => ⟨moveToReg r v t, ?_, ?_⟩,
    fun n m v t hwf hread => ?_⟩
  · exact regTakes_moveToReg (source_readRegSat q s) r _
  · exact regTakes_moveToReg (source_refl s) r _
  · exact regTakes_moveToReg (source_refl s) r v
  · exact andThen_eq_next.2 ⟨_, hread, rfl⟩
  · exact regTakes_moveToReg (source_of_operand (operand_read hread)) r v
  · obtain ⟨hop, hstep, -⟩ := operand_ind hread
    have hexec : exec (.movIndReg n m r) s = checkOperand (ruleMovIndReg n m r) (.next (moveToReg r v t)) :=
      congrArg (checkOperand _) (andThen_eq_next.2 ⟨_, hread, rfl⟩)
    exact gives_of_wf hwf hexec
      ⟨regTakes_moveToReg (source_of_operand hop) r v, fun hr => (getRN_moveToReg hr v t).trans hstep⟩

theorem accOfReg_regOfStar (n : RNStar) : accOfReg (regOfStar n) = none := by cases n <;> rfl

section
variable {ch : List Place} {s t : State} (h : Source ch s t) (v : Word)
include h

/-- The registers outside class REG that a move writes (R348, R360, R362). -/
theorem placeTakes_outside_reg : PlaceTakes .mixp v ch s t { t with regs := { t.regs with mixp := v } } ∧
    PlaceTakes .dvm v ch s t { t with regs := { t.regs with dvm := v } } ∧
    PlaceTakes .x v ch s t { t with regs := { t.regs with x := v } } := by
  refine ⟨placeTakes_with_regs h rfl fun k hk => ?_, placeTakes_with_regs h rfl fun k hk => ?_,
    placeTakes_with_regs h rfl fun k hk => ?_⟩
  all_goals cases k <;> first | exact absurd rfl hk | rfl

end

/-- Settles O40: every form is a write of one register of class REG, of a port, or of mixp, dvm or x. -/
theorem singleRegisterMoves : Obligations.SingleRegisterMoves := by
  unfold Obligations.SingleRegisterMoves
  intro s
  have star n : OnOperand s (fun ch v t u => RegTakes MovesTo (regOfStar n) v ch s t u) (writeReg (regOfStar n)) :=
    fun _ v _ h _ => writeReg_takes (source_of_operand h) (accOfReg_regOfStar n) v MovesTo
  have sv : OnOperand s (fun ch v t u => PlaceTakes .sv v ch s t u) (writeReg .sv) :=
    fun _ v _ h _ => writeReg_takes (r := .sv) (source_of_operand h) rfl v MovesTo
  refine ⟨fun n => ⟨directForm_of (star n) fun _ => rfl, fun v => ⟨_, rfl, ?_⟩⟩, directForm_of sv fun _ => rfl,
    fun v => ⟨_, rfl, ?_⟩, fun v k => ⟨_, rfl, ?_⟩, fun r hwf => gives_of_wf hwf rfl ?_,
    fun acc => ?_⟩
  · exact star n [] _ s (operand_refl s) (by simp)
  · exact sv [] _ s (operand_refl s) (by simp)
  · exact extWrite_portTakes k _ s
  · obtain ⟨hmixp, -, -⟩ := placeTakes_outside_reg (source_readRegSat r s) (readRegSat r s).1
    exact hmixp
  · obtain ⟨-, hdvm, hx⟩ := placeTakes_outside_reg (source_satRead acc .lo s) (satRead acc .lo s).1
    exact ⟨⟨_, rfl, hdvm⟩, ⟨_, rfl, hx⟩⟩

/-! ## Moves into memory -/

/-- A half of an accumulator stored where the data write succeeds. -/
theorem storeHalf_stores {acc : Acc} {h : Half} {addr : Word} {s w : State}
    (hw : dataWrite addr (satRead acc h s).1 (satRead acc h s).2 = .next w) :
    Gives (storeHalf acc h addr s) (Stored addr (satRead acc h s).1 [] s (satRead acc h s).2 w) := by
  have hsource := source_satRead acc h s
  refine ⟨w, hw, stored_of_dataWrite hw (fun q hq => ?_) hsource.pc rfl hsource.system ?_ ?_⟩
  · exact (hsource.regs q hq).trans (value_with_fl ..)
  · rw [satRead_frame]
  · rw [satRead_frame]

/-- A word of `s` stored at a direct address. -/
theorem stored_of_unchanged {addr v : Word} {s w : State} (hw : dataWrite addr v s = .next w) :
    Stored addr v [] s s w w :=
  stored_of_dataWrite hw (sameRegsBut_refl [] s) rfl rfl (sameSystem_refl s) rfl rfl

/-- The source register is read, then the address register stepped. -/
theorem movRegInd_stores {r : Reg} {n : RN} {m : PostMod} {s w : State}
    (hw : dataWrite (getRN n s) (readRegSat r s).1 (postMod n m false (readRegSat r s).2) = .next w) :
    Stored (getRN n s) (readRegSat r s).1 [.rn n] s (readRegSat r s).2 w w ∧
      getRN n w = getRN n (postMod n m false (readRegSat r s).2) := by
  obtain ⟨hregs, hpc, hsystem, -, -⟩ := readRegSat_keeps r s
  have hstep := operand_postMod n m false (readRegSat r s).2
  refine ⟨stored_of_dataWrite hw (sameRegsBut_trans hregs hstep.regs) (hstep.pc.trans hpc) hstep.fl
    (sameSystem_trans hsystem hstep.system) ?_ ?_, getRN_of_regs (congrArg (·.regs) (dataWrite_frame hw).1) n⟩
  · rw [postMod_data, readRegSat_data]
  · rw [postMod_prog, readRegSat_prog]

theorem getRN_readRegSat (n : RN) (r : Reg) (s : State) : getRN n (readRegSat r s).2 = getRN n s := by
  obtain ⟨-, -, -, -, hregs⟩ := readRegSat_keeps r s
  exact getRN_of_regs hregs n

/-- Settles O41: every form is one data write. -/
theorem stores : Obligations.Stores := by
  unfold Obligations.Stores
  intro s
  refine ⟨fun r n m w hwf hw => ?_, fun n d w hw => ?_, fun d w hw => ⟨w, hw, stored_of_unchanged hw⟩,
    fun acc h d w hw => storeHalf_stores hw,
    fun a addr w => ⟨fun hw => storeHalf_stores hw, fun o haddr hw => ?_, fun o haddr hw => ?_⟩⟩
  · have hrule : ruleMovRegInd r n m = none := Option.isNone_iff_eq_none.1 hwf
    refine ⟨w, checkOperand_eq_next.2 ⟨hrule, ?_⟩, movRegInd_stores hw⟩
    rw [withRegSat, ea, getRN_readRegSat]
    exact hw
  · have hread : (readReg (regOfStar n) s).1 = regValue (regOfStar n) s := by cases n <;> rfl
    rw [hread] at hw ⊢
    exact ⟨w, hw, stored_of_unchanged hw⟩
  · subst haddr
    rw [← rbShortAddr_eq] at hw ⊢
    exact storeHalf_stores hw
  · subst haddr
    rw [← rbLongAddr_eq] at hw ⊢
    exact storeHalf_stores hw

end Sys2Proof.Machine
end

section
/-! The bank exchange, the loads of the fields of the configuration and status registers, and modr. -/

namespace Sys2Proof.Machine

/-! ## banke -/

/-- A register and its bank, exchanged or not. -/
theorem exchange_eq {α : Type} (c : Bool) (x y : α) :
    ((if c then y else x), (if c then x else y)) = if c then (y, x) else (x, y) := by
  cases c <;> rfl

theorem keeps_bankExchange (k : BitVec 4) (s : State) :
    Keeps [.rn .r0, .r0b, .rn .r1, .r1b, .rn .r4, .r4b, .cfgi, .cfgib] s s
      { s with regs := bankExchange k s.regs } := by
  refine ⟨fun q hq => ?_, rfl, sameSystem_refl s, sameMemory_refl s, sameDevices_refl s⟩
  cases q with
  | rn n =>
    cases n with
    | r0 | r1 | r4 => simp at hq
    | _ => rfl
  | r0b | r1b | r4b | cfgi | cfgib => simp at hq
  | acc a => cases a <;> rfl
  | _ => rfl

/-! ## The fields of cfgi and cfgj -/

/-- MODx replaced, STEPx kept (R385). -/
theorem toNat_withModulo (v : BitVec 9) (cfg : Word) :
    (withModulo v cfg).toNat = v.toNat * 128 + cfg.toNat % 128 := by
  rw [withModulo, toNat_append_eq_add, BitVec.extractLsb'_toNat, Nat.shiftRight_zero]
  rfl

/-- STEPx replaced, MODx kept (R386). -/
theorem toNat_withStep (v : BitVec 7) (cfg : Word) :
    (withStep v cfg).toNat = cfg.toNat / 128 * 128 + v.toNat := by
  rw [withStep, toNat_append_eq_add, modField_eq]
  rfl

section
variable (v : Word) (s : State)

theorem keeps_cfgi : Keeps [.cfgi] s s { s with regs := { s.regs with cfgi := v } } := by
  obtain ⟨-, -, hkeeps⟩ := writeReg_takes (r := .cfgi) (source_refl s) rfl v MovesTo
  exact hkeeps

theorem keeps_cfgj : Keeps [.cfgj] s s { s with regs := { s.regs with cfgj := v } } := by
  obtain ⟨-, -, hkeeps⟩ := writeReg_takes (r := .cfgj) (source_refl s) rfl v MovesTo
  exact hkeeps

end

/-! ## The fields of st1 -/

/-- The low byte of a word replaced. -/
theorem append_byte_eq (x p v : BitVec 8) : (x ++ v : Word) = ((x ++ p : Word) &&& 0xFF00#16) + v.setWidth 16 := by
  have hmask : (x ++ p : Word) &&& 0xFF00#16 = x ++ 0#8 := by
    rw [show 0xFF00#16 = 255#8 ++ 0#8 from rfl, BitVec.and_append, BitVec.and_zero]
    congr 1
    exact BitVec.and_allOnes
  rw [hmask]
  apply BitVec.eq_of_toNat_eq
  rw [BitVec.toNat_add, toNat_append_eq_add, toNat_append_eq_add, BitVec.toNat_setWidth, BitVec.toNat_ofNat]
  have := x.isLt
  have := v.isLt
  omega

/-- PAGE is the low byte of st1 (R49). -/
theorem st1Image_with_page (v : BitVec 8) (s : State) :
    st1Image { s with md := { s.md with page := v } } = (st1Image s &&& 0xFF00#16) + v.setWidth 16 := by
  exact append_byte_eq _ s.md.page v

/-- PS is bits 11 and 10 of st1 (R53). -/
theorem st1Image_ps (s : State) : (st1Image s).extractLsb' 10 2 = s.md.ps := by
  apply BitVec.eq_of_getLsbD_eq
  intro i hi
  rw [BitVec.getLsbD_extractLsb', getLsbD_st1Image _ (by omega)]
  interval_cases i <;> simp

/-! ## modr -/

/-- modr changes its address register as post-modification does, and R (R392). -/
theorem modr_result (n : RN) (t : State) : let u : State := { t with fl := { t.fl with r := getRN n t == 0 } }
    getRN n u = getRN n t ∧ (u.fl.r = true ↔ (getRN n u).toNat = 0) := by
  intro u
  have hrn : getRN n u = getRN n t := getRN_with_fl n t _
  rw [hrn]
  exact ⟨rfl, beq_iff_eq.trans BitVec.toNat_inj.symm⟩

/-- Settles O46: each instruction by the field it writes. -/
theorem bankLoadModify : Obligations.BankLoadModify := by
  unfold Obligations.BankLoadModify
  intro s
  refine ⟨fun k => ⟨_, rfl, ?_⟩, fun v => ⟨_, rfl, st1Image_with_page v s, rfl⟩, fun j v => ⟨_, rfl, ?_⟩,
    fun j v => ⟨_, rfl, ?_⟩, fun v => ⟨_, rfl, st1Image_ps _, rfl⟩, fun n m dmod => ⟨_, rfl, ?_⟩⟩
  · exact ⟨exchange_eq .., exchange_eq .., exchange_eq .., exchange_eq .., rfl, keeps_bankExchange k s⟩
  · cases j with
    | false => exact ⟨⟨toNat_withModulo v _, keeps_cfgi _ s⟩, rfl⟩
    | true => exact ⟨⟨toNat_withModulo v _, keeps_cfgj _ s⟩, rfl⟩
  · cases j with
    | false => exact ⟨⟨toNat_withStep v _, keeps_cfgi _ s⟩, rfl⟩
    | true => exact ⟨⟨toNat_withStep v _, keeps_cfgj _ s⟩, rfl⟩
  · obtain ⟨hrn, hr⟩ := modr_result n (postMod n m dmod s)
    exact ⟨hrn, hr, by rw [postMod_fl], keeps_flags (operand_postMod n m dmod s) _⟩

end Sys2Proof.Machine
end

section
/-! Branches, calls and the step that runs an instruction. -/

namespace Sys2Proof.Machine

/-! ## The step -/

/-- What the emulation module does on a fetch changes it alone (R508). -/
theorem ocemFetch_frame (a : Word) (s : State) : ocemFetch a s = { s with ocem := (ocemFetch a s).ocem } := by
  unfold ocemFetch ocemBreak
  dsimp only
  split_ifs <;> rfl

/-- A core step in which no interrupt is taken and no order rule broken runs the instruction at the program counter. -/
theorem fetchRun_of_decode {i : Instr} {s t : State} (ht : t = ocemFetch s.pc s) (hbi : biAccepted t = false)
    (h : progMapped s.pc = true) (h2 : (instrInfo i).words = 2 → progMapped (s.pc + 1) = true)
    (hi : decode (memWord s.prog s.pc) (memWord s.prog (s.pc + 1)) = .ok i)
    (horder : orderRefusal (instrInfo i) s.pc t = none) :
    fetchRun s = andThen (exec i { t with pc := s.pc + BitVec.ofNat 16 (instrInfo i).words }) fun u =>
      .next (afterInstr i s.pc t u) := by
  have hframe := ocemFetch_frame s.pc s
  rw [← ht] at hframe
  have hpc : t.pc = s.pc := by rw [hframe]
  have hfetch : fetchInstr s.pc t = .next (i, t) := fetchInstr_of_decode h h2 (by rw [hframe]; exact hi)
  unfold fetchRun
  dsimp only
  rw [← ht, if_neg (by simp [hbi]), hpc, hfetch, andThen_next]
  unfold runInstr
  rw [hpc, horder]

/-- Settles O4: the agents and the interrupts have nothing to do, and the fetch gives the instruction. -/
theorem stepRunsInstruction : Obligations.StepRunsInstruction := by
  unfold Obligations.StepRunsInstruction
  intro s t i hin hbi hint ht htbi h h2 hi horder
  refine ⟨?_, fun hmode => ht.trans (ocemFetch_of_mode0 s.pc hmode)⟩
  rw [step, agentStep_of_no_inputs hin, andThen_next, coreStep, hbi, hint]
  exact fetchRun_of_decode ht htbi h h2 hi horder

/-! ## Branches -/

/-- The target of a relative branch in integers (R98). -/
theorem relTarget_eq (o : BitVec 7) (s : State) : relTarget o s = BitVec.ofInt 16 (s.pc.toNat + o.toInt) := by
  rw [BitVec.ofInt_add, BitVec.ofInt_natCast, BitVec.ofNat_toNat, BitVec.setWidth_eq]
  rfl

/-- IE is bit 1 of st0 (R47). -/
theorem st0Image_ie (s : State) : (st0Image s).getLsbD 1 = s.md.ie := getLsbD_st0Image s (by decide)

/-- Settles O47: each of them by the one field it writes. -/
theorem branchesAndEnables : Obligations.BranchesAndEnables := by
  unfold Obligations.BranchesAndEnables
  intro s
  refine ⟨fun addr cc hcc => ⟨_, whenCond_true hcc, rfl⟩, fun o cc hcc => ⟨_, whenCond_true hcc, ?_⟩, rfl,
    ⟨_, rfl, st0Image_ie _, rfl⟩, ⟨_, rfl, st0Image_ie _, rfl⟩⟩
  rw [relTarget_eq]

/-! ## Calls -/

/-- Settles O48: a call is a store of the return address at the new sp, and a write of the program counter. -/
theorem calls : Obligations.Calls := by
  unfold Obligations.Calls
  intro s w low hw target
  obtain ⟨-, hpc, -⟩ := dataWrite_keeps hw
  have hcall : ∀ addr, Gives (doCall addr s) (target addr) := fun addr => by
    refine ⟨{ w with pc := addr }, andThen_eq_next.2 ⟨w, hw, rfl⟩, rfl, ?_, ?_⟩
    · exact congrArg (·.regs.sp) (dataWrite_frame hw).1
    · have hback : ({ w with pc := s.pc } : State) = w := by rw [← hpc]
      dsimp only
      rw [hback]
      exact stored_of_dataWrite hw (operand_setSp low s).regs rfl rfl (sameSystem_refl s) rfl rfl
  refine ⟨fun addr cc hcc => ?_, fun o cc hcc => ?_, fun a => ?_⟩
  · rw [show exec (.call addr cc) s = doCall addr s from whenCond_true hcc]
    exact hcall addr
  · rw [show exec (.callr o cc) s = doCall (relTarget o s) s from whenCond_true hcc, relTarget_eq]
    exact hcall _
  · rw [← halfOf_lo_eq]
    exact hcall _

end Sys2Proof.Machine
end

section
/-! Returns: a return is a read at sp and a `returnTo`, which resumes a repeat that was put aside at its target; the end of
a service routine; the delayed returns. -/

namespace Sys2Proof.Machine

/-! ## Going back to an address -/

section
variable {v : Word} {s : State}

/-- No repeat put aside waits at the target: only the program counter changes. -/
theorem returnTo_plain (h : s.ctl.repSuspended = false ∨ v ≠ s.ctl.repSavedAddr) : returnTo v s = { s with pc := v } :=
  if_neg (by rw [Bool.and_eq_true, beq_iff_eq]; rcases h with h | h <;> simp [h])

/-- A repeat put aside at the target resumes (R420, D22). -/
theorem returnTo_resumes (h : s.ctl.repSuspended = true) (hv : v = s.ctl.repSavedAddr) : returnTo v s =
    { s with
      pc := v
      regs := { s.regs with repc := s.ctl.repSaved }
      ctl := { s.ctl with repActive := true, repAddr := v, repSuspended := false, repResumed := true } } :=
  if_pos (by rw [Bool.and_eq_true, beq_iff_eq]; exact ⟨h, hv⟩)

/-- A return changes at most the repeat counter among the registers. -/
theorem returnTo_regs (v : Word) (s : State) : SameRegsBut [.repc] s (returnTo v s) := by
  rw [returnTo_frame]
  intro q hq
  cases q with
  | repc => exact absurd (List.mem_singleton.2 rfl) hq
  | acc a => cases a <;> rfl
  | rn n => cases n <;> rfl
  | _ => rfl

end

/-! ## ret and rets -/

/-- The state after a return: the word at sp has been read, sp is `sp`, and the core goes back to the word. -/
def returned (v sp : Word) (t : State) : State := returnTo v { t with regs := { t.regs with sp := sp } }

theorem doReturn_of_reads {v : Word} {s t : State} (h : Reads s.regs.sp s v t) :
    doReturn s = .next (returned v (s.regs.sp + 1) t) := by
  rw [doReturn, popWord_of_reads h]
  rfl

theorem execRets_of_reads {v : Word} {s t : State} (k : BitVec 8) (h : Reads s.regs.sp s v t) :
    exec (.rets k) s = .next (returned v (BitVec.ofNat 16 (s.regs.sp.toNat + 1 + k.toNat)) t) := by
  have hsp : t.regs.sp + 1 + k.setWidth 16 = BitVec.ofNat 16 (s.regs.sp.toNat + 1 + k.toNat) := by
    rw [readsRegs h]
    apply BitVec.eq_of_toNat_eq
    simp
  show andThen (dataRead s.regs.sp s) _ = _
  rw [h, andThen_next, hsp]
  rfl

section
variable {v sp : Word} {s t : State}

theorem returned_plain (h : Operand [] s t) (hv : s.ctl.repSuspended = false ∨ v ≠ s.ctl.repSavedAddr) :
    returned v sp t = { t with pc := v, regs := { t.regs with sp := sp } } :=
  returnTo_plain (by rw [← h.system.2.2.1] at hv; exact hv)

theorem returned_resumes (h : Operand [] s t) (hs : s.ctl.repSuspended = true) (hv : v = s.ctl.repSavedAddr) :
    returned v sp t = { t with
      pc := v
      regs := { t.regs with sp := sp, repc := s.ctl.repSaved }
      ctl := { s.ctl with repActive := true, repAddr := v, repSuspended := false, repResumed := true } } := by
  rw [← h.system.2.2.1] at hs hv ⊢
  exact returnTo_resumes hs hv

/-- What a return leaves alone. -/
theorem returned_frame (v sp : Word) (t : State) : returned v sp t = { t with
    pc := v
    regs := { t.regs with sp := sp, repc := (returned v sp t).regs.repc }
    ctl := (returned v sp t).ctl } :=
  returnTo_frame ..

theorem returned_regs (h : Operand [] s t) : SameRegsBut [.sp, .repc] s (returned v sp t) :=
  sameRegsBut_trans (sameRegsBut_trans h.regs (operand_setSp sp t).regs) (returnTo_regs v _)

end

/-- Settles O49: both forms are a read at sp and `returned`. -/
theorem returns : Obligations.Returns := by
  unfold Obligations.Returns
  intro s t v hread back
  have hop := operand_read hread
  have hback : ∀ sp, back sp (returned v sp t) := fun sp => by
    dsimp only [back]
    refine ⟨?_, ?_, ?_, ?_, ?_, ?_, fun hv => ?_, fun hs hv => ?_⟩
    · rw [returned_frame]
    · rw [returned_frame]
    · rw [returned_frame]; exact hop.fl
    · rw [returned_frame]; exact hop.system.1
    · rw [returned_frame]; exact hop.memory
    · rw [returned_frame]; exact sameDevices_refl t
    · rw [returned_plain hop hv]
      exact ⟨hop.system.2.2.1, sameRegsBut_trans hop.regs (operand_setSp sp t).regs⟩
    · have hregs : SameRegsBut [.sp, .repc] s (returned v sp t) := returned_regs hop
      rw [returned_resumes hop hs hv] at hregs ⊢
      exact ⟨rfl, rfl, rfl, rfl, hregs⟩
  refine ⟨fun cc hcc => ⟨_, ?_, hback _⟩, fun k => ⟨_, execRets_of_reads k hread, hback _⟩⟩
  exact (whenCond_true hcc).trans (doReturn_of_reads hread)

end Sys2Proof.Machine
end

section
/-! Context switching: what a store and a restore do to the shadowed fields. -/

namespace Sys2Proof.Machine

/-- The shadowed bits of st0, from the high one on (R68). -/
theorem getLsbD_st0Shadowed {i : Nat} (s : State) (hi : i < 10) : (st0Shadowed s).getLsbD i =
    if i = 0 then s.md.im0 else if i = 1 then s.md.im1 else if i = 2 then s.fl.r else if i = 3 then s.fl.l
    else if i = 4 then s.fl.e else if i = 5 then s.fl.c else if i = 6 then s.fl.v else if i = 7 then s.fl.n
    else if i = 8 then s.fl.m else s.fl.z := by
  rw [st0Shadowed, BitVec.getLsbD_extractLsb', getLsbD_st0Image _ (by omega)]
  interval_cases i <;> rfl

/-- The low byte of st2 bit by bit (R54). -/
theorem getLsbD_st2Low {i : Nat} (s : State) (hi : i < 8) : (st2Low s).getLsbD i =
    if i < 6 then s.md.mEn.getLsbD i else if i = 6 then s.md.im2 else s.md.s := by
  rw [st2Low, BitVec.getLsbD_append, BitVec.getLsbD_append]
  interval_cases i <;> simp

theorem st2Image_low (s : State) : (st2Image s).extractLsb' 0 8 = st2Low s := by
  apply BitVec.eq_of_getLsbD_eq
  intro i hi
  rw [BitVec.getLsbD_extractLsb', getLsbD_st2Image _ (by omega), getLsbD_st2Low s hi]
  interval_cases i <;> rfl

/-- A restore brings back the saved bits of st0 (R472). -/
theorem st0Shadowed_contextRestore (s : State) : st0Shadowed (contextRestore s) = s.shadow.st0 := by
  apply BitVec.eq_of_getLsbD_eq
  intro i hi
  rw [getLsbD_st0Shadowed _ hi]
  interval_cases i <;> rfl

/-- A restore brings back the saved bits of st2 (R472). -/
theorem st2Low_contextRestore (s : State) : st2Low (contextRestore s) = s.shadow.st2 := by
  apply BitVec.eq_of_getLsbD_eq
  intro i hi
  rw [getLsbD_st2Low _ hi]
  interval_cases i <;> simp [contextRestore, contextSwap, writeSt2Low]

theorem st0Image_sat (s : State) : (st0Image s).getLsbD 0 = s.md.sat := getLsbD_st0Image s (by decide)

/-- A restore right after a store gives the flags back. -/
theorem contextRestore_contextStore_fl (s : State) : (contextRestore (contextStore s)).fl = s.fl := by
  show (let v := st0Shadowed s
    Flags.mk (v.getLsbD 9) (v.getLsbD 8) (v.getLsbD 7) (v.getLsbD 6) (v.getLsbD 5) (v.getLsbD 4) (v.getLsbD 3)
      (v.getLsbD 2)) = s.fl
  simp [-BitVec.getLsbD_eq_getElem, getLsbD_st0Shadowed]

/-- A restore right after a store gives the modes back. -/
theorem contextRestore_contextStore_md (s : State) : (contextRestore (contextStore s)).md = s.md := by
  have hmEn : (st2Low s).extractLsb' 0 6 = s.md.mEn := by
    apply BitVec.eq_of_getLsbD_eq
    intro i h
    rw [BitVec.getLsbD_extractLsb', getLsbD_st2Low s (by omega)]
    interval_cases i <;> rfl
  show { s.md with
    im1 := (st0Shadowed s).getLsbD 1, im0 := (st0Shadowed s).getLsbD 0,
    s := (st2Low s).getLsbD 7, im2 := (st2Low s).getLsbD 6, mEn := (st2Low s).extractLsb' 0 6 } = s.md
  rw [hmEn]
  simp [-BitVec.getLsbD_eq_getElem, getLsbD_st0Shadowed, getLsbD_st2Low]

/-- A restore right after a store (R434): everything comes back but the shadows. -/
theorem contextRestore_contextStore (s : State) : contextRestore (contextStore s) =
    { s with shadow := { (contextStore s).shadow with pageAlt := s.shadow.pageAlt } } := by
  show { s with
    fl := (contextRestore (contextStore s)).fl
    md := (contextRestore (contextStore s)).md
    shadow := { (contextStore s).shadow with pageAlt := s.shadow.pageAlt } } = _
  rw [contextRestore_contextStore_fl, contextRestore_contextStore_md]

/-- Settles O56: the store by its definition, the restore by the bits of the images. -/
theorem contextSwitching : Obligations.ContextSwitching := by
  unfold Obligations.ContextSwitching
  intro s
  refine ⟨⟨contextStore s, rfl, rfl, rfl, ZMEN_setFlags36 _ _, ⟨rfl, rfl, rfl, rfl⟩, rfl, rfl, rfl, ?_, rfl, rfl, ?_⟩,
    ⟨contextRestore s, rfl, rfl, rfl, rfl, st0Shadowed_contextRestore s, rfl, rfl, ?_, rfl, rfl⟩⟩
  · exact (st2Image_low s).symm
  · exact congrArg Host.Outcome.next (contextRestore_contextStore s)
  · rw [st2Image_low, st2Low_contextRestore]

end Sys2Proof.Machine
end

section
/-! The end of a service routine, and the delayed returns. -/

namespace Sys2Proof.Machine

/-! ## MODE0 -/

theorem ocemDataWatch_mode0 (b : State) (dx vx : Nat) (a : Word) (v : Option Word) (s : State) :
    (ocemDataWatch b dx vx a v s).ocem.mode0 = s.ocem.mode0 := by
  unfold ocemDataWatch ocemDataBreak ocemCause
  dsimp only
  split_ifs <;> rfl

theorem ocemWatch_mode0 (r : Bool) (a : Word) (v : Option Word) (b s : State) :
    (ocemWatch r a v b s).ocem.mode0 = s.ocem.mode0 := by
  unfold ocemWatch
  split
  · rfl
  · dsimp only
    split <;> rw [ocemDataWatch_mode0] <;> split_ifs <;> rfl

/-- No data read changes MODE0. -/
theorem reads_mode0 {a v : Word} {s t : State} (h : Reads a s v t) : t.ocem.mode0 = s.ocem.mode0 := by
  unfold Reads dataRead at h
  rw [andThen_eq_next] at h
  obtain ⟨⟨w, u⟩, hr, h⟩ := h
  obtain ⟨-, rfl⟩ := Prod.mk.inj (Host.Outcome.next.inj h)
  rw [ocemWatch_mode0]
  unfold dataReadRaw at hr
  split at hr
  · cases hr; rfl
  · dsimp only at hr
    split at hr <;> (cases hr; rfl)
  · cases hr; rfl
  · obtain rfl : (codecRead a s).2 = u := congrArg Prod.snd (Host.Outcome.next.inj hr)
    rw [codecRead_frame]
  · obtain rfl : (ocemRead a s).2 = u := congrArg Prod.snd (Host.Outcome.next.inj hr)
    unfold ocemRead
    split <;> rfl
  · cases hr

/-! ## The end of a service routine -/

/-- The loop and return state after the end of a service routine (R467): `step` says whether a single step is armed. -/
def serviceEnded (later step : Bool) (c : Control) : Control :=
  if c.inTrap then { c with inTrap := false, trapRet := !later, trapRetLater := later, stepArmed := step } else c

theorem endService_eq (later : Bool) (s : State) : endService later s = { s with
    ctl := serviceEnded later (s.ocem.mode0.getLsbD 15) s.ctl
    md := { s.md with ie := if s.ctl.inTrap then s.md.ie else true } } := by
  unfold endService serviceEnded
  cases s.ctl.inTrap <;> rfl

theorem serviceEnded_inTrap (later step : Bool) (c : Control) : (serviceEnded later step c).inTrap = false := by
  unfold serviceEnded
  cases h : c.inTrap
  · exact h
  · rfl

/-- The end of the routine and the resumption of a repeat do not touch each other's fields. -/
theorem serviceEnded_resumed (later step : Bool) (c : Control) (v : Word) :
    serviceEnded later step { c with repActive := true, repAddr := v, repSuspended := false, repResumed := true } =
      { serviceEnded later step c with repActive := true, repAddr := v, repSuspended := false, repResumed := true } := by
  simp only [serviceEnded]
  split <;> rfl

/-! ## reti -/

theorem execReti_of_reads {v : Word} {s t : State} {cc : Cond} (ctx : Bool) (hcc : condHolds cc s = true)
    (h : Reads s.regs.sp s v t) : exec (.reti cc ctx) s = .next (let u := endService false (returned v (s.regs.sp + 1) t)
      if ctx then contextRestore u else u) := by
  refine (whenCond_true hcc).trans ?_
  rw [doReturn_of_reads h, andThen_next]

theorem returned_inTrap {v sp : Word} {s t : State} (h : Operand [] s t) :
    (returned v sp t).ctl.inTrap = s.ctl.inTrap := by
  rw [← h.system.2.2.1, returned]
  unfold returnTo
  split <;> rfl

/-- The end of a service routine after the return, from the state before it. -/
theorem endService_returned {v sp a : Word} {s t : State} (later : Bool) (h : Reads a s v t) :
    endService later (returned v sp t) = { returned v sp t with
      ctl := serviceEnded later (s.ocem.mode0.getLsbD 15) (returned v sp t).ctl
      md := { s.md with ie := if s.ctl.inTrap then s.md.ie else true } } := by
  have hop := operand_read h
  have hocem : (returned v sp t).ocem.mode0 = s.ocem.mode0 := (congrArg Ocem.mode0 (by rw [returned_frame])).trans (reads_mode0 h)
  have hmd : (returned v sp t).md = s.md := by rw [returned_frame]; exact hop.system.1
  rw [endService_eq, returned_inTrap hop, hocem, hmd]

/-- The registers by name are those of the state's register file. -/
theorem value_of_regs {s t : State} (h : t.regs = s.regs) (q : Place) : q.value t = q.value s := by
  cases q with
  | acc a => cases a <;> simp [Place.value, getAcc, h]
  | rn n => cases n <;> simp [Place.value, getRN, h]
  | _ => simp [Place.value, h]

theorem sameRegsBut_of_regs {ch : List Place} {s t u : State} (h : SameRegsBut ch s t) (hu : u.regs = t.regs) :
    SameRegsBut ch s u := fun q hq => (value_of_regs hu q).trans (h q hq)

theorem sameRegsBut_from {ch : List Place} {s t u : State} (h : SameRegsBut ch t u) (hs : t.regs = s.regs) :
    SameRegsBut ch s u := fun q hq => (h q hq).trans (value_of_regs hs q)

/-- Among the registers a restore exchanges a1 and b1 only (R472). -/
theorem contextRestore_regs (s : State) : SameRegsBut [.acc .a1, .acc .b1] s (contextRestore s) := by
  intro q hq
  cases q with
  | acc a =>
    cases a with
    | a1 | b1 => simp at hq
    | _ => rfl
  | rn n => cases n <;> rfl
  | _ => rfl

/-- Settles O50: a return, then the end of the routine, then the restore, each on fields of its own. -/
theorem returnFromInterrupt : Obligations.ReturnFromInterrupt := by
  unfold Obligations.ReturnFromInterrupt
  intro s t v cc hread hcc c ends
  have hop := operand_read hread
  obtain ⟨-, hsh, hctl, hdpmb, h0, h1, htm, hin, harm⟩ := hop.system
  have hframe := returned_frame v (s.regs.sp + 1) t
  have hregs : SameRegsBut [.sp, .repc] s (returned v (s.regs.sp + 1) t) := returned_regs hop
  have hplain := returned_plain (v := v) (sp := s.regs.sp + 1) hop
  have hresumes := returned_resumes (v := v) (sp := s.regs.sp + 1) hop
  have hends : ends (endService false (returned v (s.regs.sp + 1) t)) := by
    rw [endService_returned false hread]
    refine ⟨?_, ?_, serviceEnded_inTrap .., rfl, ?_, ?_, ?_, ?_, ?_, ?_, ?_, ?_, fun hv => ?_, fun hs hv => ?_⟩
    · rw [hframe]
    · rw [hframe]
    · rw [hframe]; exact hop.memory
    · rw [hframe]; exact sameDevices_refl t
    · rw [hframe]; exact hdpmb
    · rw [hframe]; exact h0
    · rw [hframe]; exact h1
    · rw [hframe]; exact htm
    · rw [hframe]; exact hin
    · rw [hframe]; exact harm
    · rw [hplain hv, hctl]
      exact ⟨rfl, congrArg (·.repc) (readsRegs hread)⟩
    · rw [hresumes hs hv, serviceEnded_resumed]
      exact ⟨rfl, rfl⟩
  refine ⟨⟨_, execReti_of_reads false hcc hread, hends, ?_⟩, ⟨_, execReti_of_reads true hcc hread, hends, ?_⟩⟩
  · rw [endService_returned false hread]
    refine ⟨?_, rfl, ?_, sameRegsBut_of_regs hregs rfl⟩
    · rw [hframe]; exact hop.fl
    · rw [hframe]; exact hsh
  · rw [endService_returned false hread] at hends ⊢
    have hswitched := sameRegsBut_trans (sameRegsBut_of_regs hregs rfl) (contextRestore_regs _)
    have hr : (returned v (s.regs.sp + 1) t).shadow = s.shadow := by rw [hframe]; exact hsh
    have ha1 : (returned v (s.regs.sp + 1) t).regs.a1 = s.regs.a1 := by rw [hframe, readsRegs hread]
    have hb1 : (returned v (s.regs.sp + 1) t).regs.b1 = s.regs.b1 := by rw [hframe, readsRegs hread]
    refine ⟨hb1, ha1, congrArg Shadow.pageAlt hr, ?_, (st0Shadowed_contextRestore _).trans (congrArg Shadow.st0 hr),
      (st0Image_sat _).trans ((congrArg Shadow.sat hr :)), (congrArg Shadow.ps hr :),
      (st2Low_contextRestore _).trans (congrArg Shadow.st2 hr), hswitched, rfl⟩
    exact congrArg (fun x : Shadow => { x with pageAlt := s.md.page }) hr

end Sys2Proof.Machine
end

section
/-! The sequencing after an instruction: what each part of it leaves alone, and the delayed returns. -/

namespace Sys2Proof.Machine

/-! ## Frames of the sequencing -/

theorem tracePush_frame (e : TraceEntry) (s : State) : tracePush e s = { s with ocem := (tracePush e s).ocem } := by
  unfold tracePush ocemBreak
  dsimp only
  split_ifs <;> rfl

theorem traceTwo_frame (src dst : Word) (s : State) :
    traceTwo src dst s = { s with ocem := (traceTwo src dst s).ocem } :=
  ocem_frame_trans (tracePush_frame ..) (tracePush_frame ..)

/-- A breakpoint that may be taken changes the emulation module only. -/
theorem ocemBreakIf_frame (c : Bool) (k : Nat) {s t : State} (h : t = { s with ocem := t.ocem }) :
    (if c then ocemBreak k t else t) = { s with ocem := (if c then ocemBreak k t else t).ocem } := by
  cases c
  · exact h
  · exact ocem_frame_trans h (ocemBreak_frame k t)

/-- What the emulation module does on a jump changes it alone. -/
theorem ocemJump_frame (f : InstrInfo) (a : Word) (b s : State) :
    ocemJump f a b s = { s with ocem := (ocemJump f a b s).ocem } := by
  unfold ocemJump
  split
  · dsimp only
    refine ocemBreakIf_frame _ 11 ?_
    split
    · exact tracePush_frame ..
    · exact traceTwo_frame ..
  · rfl

theorem afterData_frame (b s : State) : afterData b s = { s with ocem := (afterData b s).ocem } := by
  unfold afterData
  split <;> rfl

theorem afterTrapRet_frame (b s : State) : afterTrapRet b s =
    { s with
      ctl := { s.ctl with trapRet := (afterTrapRet b s).ctl.trapRet, stepArmed := (afterTrapRet b s).ctl.stepArmed }
      ocem := (afterTrapRet b s).ocem } := by
  unfold afterTrapRet
  split <;> rfl

section
variable {a : Word} {b s : State}

theorem afterRepeat_off (h : b.ctl.repActive = false) : afterRepeat a b s = (s, false) := by
  rw [afterRepeat, h]
  rfl

theorem afterBlock_off {next : Word} (h : s.ctl.lp = false) : afterBlock next s = s := by
  rw [afterBlock, h]
  rfl

end

/-! ## The end of a delayed return -/

section
variable {n : Nat} {b s : State}

theorem afterDelay_waits (h0 : b.ctl.delayCount ≠ 0) (h : n < b.ctl.delayCount) :
    afterDelay n b s = { s with ctl := { s.ctl with delayCount := b.ctl.delayCount - n } } := by
  rw [afterDelay, if_neg h0, if_pos h]

/-- The loop and return state in which the core goes back to the target of a delayed return. -/
def delayEnded (c : Control) : Control :=
  { c with delayCount := 0, delayFrom := none, trapRet := c.trapRet || c.trapRetLater, trapRetLater := false }

/-- With no cycle left the core goes back to the target; besides, only the emulation module changes. -/
theorem afterDelay_lands (h0 : b.ctl.delayCount ≠ 0) (h : b.ctl.delayCount ≤ n) : afterDelay n b s =
    { returnTo s.ctl.delayTarget { s with ctl := delayEnded s.ctl } with ocem := (afterDelay n b s).ocem } := by
  rw [afterDelay, if_neg h0, if_neg (Nat.not_lt.2 h)]
  dsimp only
  split
  · rfl
  · exact ocemBreakIf_frame _ 11 (traceTwo_frame ..)

end

/-! ## retd and retid -/

/-- The loop and return state in which a delayed return to `v` waits, started by the instruction at `src` (R413, R514). -/
def delayStarted (v src : Word) (c : Control) : Control :=
  { c with delayTarget := v, delayCount := 2, delayFrom := if c.inTrap then none else some src }

/-- The start of a delayed return: the target has been read at sp, and waits. -/
theorem startDelayedReturn_of_reads {v : Word} {s t : State} (h : Reads s.regs.sp s v t) :
    startDelayedReturn s =
      .next { t with regs := { t.regs with sp := s.regs.sp + 1 }, ctl := delayStarted v (s.pc - 1) s.ctl } := by
  rw [startDelayedReturn, popWord_of_reads h, ← (operand_read h).system.2.2.1]
  rfl

theorem execRetid_of_reads {v : Word} {s t : State} (h : Reads s.regs.sp s v t) : exec .retid s =
    .next (endService true
      { t with regs := { t.regs with sp := s.regs.sp + 1 }, ctl := delayStarted v (s.pc - 1) s.ctl }) := by
  show andThen (startDelayedReturn s) _ = _
  rw [startDelayedReturn_of_reads h, andThen_next]

theorem serviceEnded_delay (later step : Bool) (c : Control) : (serviceEnded later step c).delayTarget = c.delayTarget ∧
    (serviceEnded later step c).delayCount = c.delayCount := by
  unfold serviceEnded
  split <;> exact ⟨rfl, rfl⟩

/-- With no repeat and no block repeat running, an instruction leaves the program counter and the cycles of a delayed return
to the sequencing of that return alone. -/
theorem afterInstr_delay (i : Instr) (a : Word) {b s : State} (hrep : b.ctl.repActive = false) (hlp : s.ctl.lp = false) :
    ∃ o, let w := afterDelay (cyclesOf (instrInfo i) b) b { s with ocem := o }
      (afterInstr i a b s).pc = w.pc ∧ (afterInstr i a b s).ctl.delayCount = w.ctl.delayCount := by
  refine ⟨(ocemJump (instrInfo i) a b s).ocem, ?_⟩
  rw [← ocemJump_frame]
  have hblock : (ocemJump (instrInfo i) a b s).ctl.lp = false := by rw [ocemJump_ctl]; exact hlp
  unfold afterInstr
  dsimp only
  rw [afterRepeat_off hrep]
  dsimp only
  rw [if_neg nofun, afterBlock_off hblock, afterTrapRet_frame, afterData_frame]
  exact ⟨rfl, rfl⟩

/-- A return leaves the cycles of a delayed return. -/
theorem returnTo_delayCount (v : Word) (s : State) : (returnTo v s).ctl.delayCount = s.ctl.delayCount := by
  unfold returnTo
  split <;> rfl

/-- Settles O51: the start is a read at sp, the end is the sequencing of the delayed return. -/
theorem delayedReturns : Obligations.DelayedReturns := by
  unfold Obligations.DelayedReturns
  intro s t v hread starts
  have hop := operand_read hread
  have hregs : SameRegsBut [.sp] s { t with regs := { t.regs with sp := s.regs.sp + 1 } } :=
    sameRegsBut_trans hop.regs (operand_setSp (s.regs.sp + 1) t).regs
  refine ⟨⟨_, startDelayedReturn_of_reads hread, ⟨hop.pc, rfl, rfl, rfl, hop.fl, sameRegsBut_of_regs hregs rfl, hop.memory,
      sameDevices_refl t⟩, hop.system.1, rfl⟩, ⟨_, execRetid_of_reads hread, ?_⟩,
    fun b u n h0 => ⟨afterDelay_waits h0, fun h => ?_⟩, fun i a b u h0 hrep hlp => ?_⟩
  · rw [endService_eq]
    obtain ⟨htarget, hcount⟩ := serviceEnded_delay true (t.ocem.mode0.getLsbD 15) (delayStarted v (s.pc - 1) s.ctl)
    refine ⟨⟨hop.pc, rfl, htarget, hcount, hop.fl, sameRegsBut_of_regs hregs rfl, hop.memory, sameDevices_refl t⟩,
      serviceEnded_inTrap .., ?_⟩
    show { t.md with ie := if s.ctl.inTrap then t.md.ie else true } = _
    rw [hop.system.1]
  · have hw := afterDelay_lands (s := u) h0 h
    have hsame := returnTo_regs u.ctl.delayTarget { u with ctl := delayEnded u.ctl }
    have hcount := returnTo_delayCount u.ctl.delayTarget { u with ctl := delayEnded u.ctl }
    generalize (afterDelay n b u).ocem = o at hw
    rw [hw]
    refine ⟨?_, hcount, ?_, ?_, sameRegsBut_of_regs (sameRegsBut_from hsame rfl) rfl, ?_, fun hv => ?_, fun hs hv => ?_⟩
    · rw [returnTo_frame]
    · rw [returnTo_frame]
    · rw [returnTo_frame]
    · rw [returnTo_frame]; exact sameMemory_refl u
    · rw [returnTo_plain (s := { u with ctl := delayEnded u.ctl }) hv]
      exact ⟨rfl, rfl, rfl⟩
    · rw [returnTo_resumes (s := { u with ctl := delayEnded u.ctl }) hs hv]
      exact ⟨rfl, rfl, rfl, rfl⟩
  · obtain ⟨o, hpc, hcount⟩ := afterInstr_delay i a hrep hlp
    refine ⟨fun h => ?_, fun h => ?_⟩
    · rw [hpc, hcount, afterDelay_waits h0 h]
      exact ⟨rfl, rfl⟩
    · rw [hpc, hcount, afterDelay_lands h0 h]
      refine ⟨?_, returnTo_delayCount ..⟩
      rw [returnTo_frame]

end Sys2Proof.Machine
end

section
/-! What the emulation module does on seeing a data access, and trap. -/

namespace Sys2Proof.Machine

/-! ## Causes -/

/-- Setting a cause bit of STATUS0 sets that bit only (R504). -/
theorem getLsbD_ocemCause {k : Nat} (hk : k < 16) (j : Nat) (o : Ocem) :
    (ocemCause k o).status0.getLsbD j = (o.status0.getLsbD j || decide (j = k)) :=
  Bool.eq_iff_iff.2 ((getLsbD_or_bit o.status0 hk j).trans (by simp))

theorem ocemDataBreak_status0 {k : Nat} (hk : k < 16) (j : Nat) (s : State) :
    (ocemDataBreak k s).ocem.status0.getLsbD j = (s.ocem.status0.getLsbD j || decide (j = k)) :=
  getLsbD_ocemCause hk j s.ocem

/-- A data breakpoint that may be hit: its cause bit and the latency, which is not started again while it runs (R511). -/
theorem ocemDataBreakIf_effect (c : Bool) {k : Nat} (hk : k < 16) (s : State) :
    let t := if c then ocemDataBreak k s else s
    (∀ j, t.ocem.status0.getLsbD j = (s.ocem.status0.getLsbD j || (c && decide (j = k)))) ∧
      t.ocem.biData = (if c && s.ocem.biData == 0 then 2 else s.ocem.biData) ∧ t.ocem.biReq = s.ocem.biReq := by
  cases c with
  | false => simp
  | true => exact ⟨fun j => ocemDataBreak_status0 hk j s, by simp [ocemDataBreak], rfl⟩

/-! ## A watched access -/

section
variable (b s : State) (dx vx : Nat) (a : Word) (v : Option Word)

/-- The address match of a data breakpoint, judged on `b` (R509). -/
def dataMatch : Bool := b.ocem.mode0.getLsbD dx && ocemMatchAddr b.ocem a

/-- The value match of a data breakpoint, judged on `b` (R510). -/
def valueMatch : Bool := b.ocem.mode0.getLsbD vx && v == some b.regs.dvm

/-- A data breakpoint is hit: by both matches when CDVAE asks for both, else by one of them (R510). -/
def dataHit : Bool :=
  if b.ocem.mode0.getLsbD 4 then dataMatch b dx a && valueMatch b vx v else dataMatch b dx a || valueMatch b vx v

/-- The causes and the latency a data access leaves (R510, R511). -/
theorem ocemDataWatch_effect :
    (∀ k, (ocemDataWatch b dx vx a v s).ocem.status0.getLsbD k = (s.ocem.status0.getLsbD k ||
      (decide (k = 2) && b.ocem.mode0.getLsbD 4 && dataMatch b dx a && valueMatch b vx v) ||
      (decide (k = 1) && !b.ocem.mode0.getLsbD 4 && dataMatch b dx a) ||
      (decide (k = 0) && !b.ocem.mode0.getLsbD 4 && valueMatch b vx v))) ∧
      (ocemDataWatch b dx vx a v s).ocem.biData =
        (if dataHit b dx vx a v && s.ocem.biData == 0 then 2 else s.ocem.biData) ∧
      (ocemDataWatch b dx vx a v s).ocem.biReq = s.ocem.biReq := by
  have hwatch : ocemDataWatch b dx vx a v s =
      if b.ocem.mode0.getLsbD 4 then (if dataMatch b dx a && valueMatch b vx v then ocemDataBreak 2 s else s)
      else if valueMatch b vx v then ocemDataBreak 0 (if dataMatch b dx a then ocemDataBreak 1 s else s)
      else if dataMatch b dx a then ocemDataBreak 1 s else s := rfl
  rw [hwatch, dataHit]
  generalize dataMatch b dx a = da
  generalize valueMatch b vx v = dv
  cases b.ocem.mode0.getLsbD 4 with
  | true =>
    obtain ⟨hst, hdata, hreq⟩ := ocemDataBreakIf_effect (da && dv) (k := 2) (by decide) s
    refine ⟨fun k => (hst k).trans ?_, hdata, hreq⟩
    simp [Bool.and_comm (decide (k = 2)), Bool.and_assoc]
  | false =>
    obtain ⟨hst1, hdata1, hreq1⟩ := ocemDataBreakIf_effect da (k := 1) (by decide) s
    obtain ⟨hst0, hdata0, hreq0⟩ :=
      ocemDataBreakIf_effect dv (k := 0) (by decide) (if da then ocemDataBreak 1 s else s)
    refine ⟨fun k => ?_, ?_, hreq0.trans hreq1⟩
    · refine (hst0 k).trans ?_
      rw [hst1]
      simp [Bool.and_comm]
    · refine hdata0.trans ?_
      rw [hdata1]
      cases da <;> cases dv <;> by_cases hz : s.ocem.biData = 0 <;> simp [hz]

variable {b}

/-- Outside the TRAP/BI routine: the illegal-access breakpoint, then the data breakpoints of a read or of a write (R506,
R510). -/
theorem ocemWatch_of_not_inTrap (h : b.ctl.inTrap = false) (r : Bool) : ocemWatch r a v b s =
    ocemDataWatch b (if r then 3 else 2) (if r then 1 else 0) a v
      (if b.ocem.mode0.getLsbD 14 && ocemIllegalAddr a then ocemBreak 14 s else s) := by
  unfold ocemWatch
  rw [h, Bool.false_or]
  split
  next h0 =>
    have hzero : ∀ k, b.ocem.mode0.getLsbD k = false := by simp [beq_iff_eq.1 h0]
    simp [ocemDataWatch, hzero, -BitVec.getLsbD_eq_getElem]
  next => cases r <;> rfl

/-- Watching an access clears no cause. -/
theorem ocemWatch_status0_rises (r : Bool) {k : Nat} (hk : s.ocem.status0.getLsbD k = true) :
    (ocemWatch r a v b s).ocem.status0.getLsbD k = true := by
  cases h : b.ctl.inTrap with
  | true => rw [ocemWatch_unwatched (.inr h)]; exact hk
  | false =>
    rw [ocemWatch_of_not_inTrap s a v h, (ocemDataWatch_effect ..).1]
    have hbreak : (ocemBreak 14 s).ocem.status0.getLsbD k = true := by
      show (ocemCause 14 s.ocem).status0.getLsbD k = true
      rw [getLsbD_ocemCause (by decide), hk, Bool.true_or]
    split <;> simp [hk, hbreak, -BitVec.getLsbD_eq_getElem]

end

/-- A data write outside the emulation registers clears no cause. -/
theorem dataWrite_status0_rises {a v : Word} {s t : State} (h : dataWrite a v s = .next t) (ha : dataRegion a ≠ .ocem)
    {k : Nat} (hk : s.ocem.status0.getLsbD k = true) : t.ocem.status0.getLsbD k = true := by
  unfold dataWrite at h
  rw [andThen_eq_next] at h
  obtain ⟨u, hr, h⟩ := h
  rw [← Host.Outcome.next.inj h]
  apply ocemWatch_status0_rises
  unfold dataWriteRaw at hr
  split at hr
  · cases hr; exact hk
  · dsimp only at hr
    split at hr <;> (cases hr; exact hk)
  · cases hr; exact hk
  · cases hr; exact hk
  · exact absurd ‹_› ha
  · cases hr

/-! ## Exceptions -/

/-- Nothing is put aside when no repeat runs. -/
theorem suspendRepeat_off {c : Control} (h : c.repActive = false) (w : Word) : suspendRepeat c w = c := by
  rw [suspendRepeat, h]
  rfl

/-- TRAP/BI after its push (R468). -/
theorem takeException_trapBi {s w : State}
    (h : push s.pc { s with ctl := suspendRepeat s.ctl s.regs.repc } = .next w) :
    takeException .trapBi s = .next { w with
      pc := 0x0002#16, regs := { w.regs with dvm := s.pc }, ctl := { w.ctl with inTrap := true } } := by
  rw [takeException, h]
  rfl

/-- A maskable interrupt after its push (R461). -/
theorem takeException_maskable {e : Event} {s w : State} (he : e ≠ .trapBi)
    (h : push s.pc { s with ctl := suspendRepeat s.ctl s.regs.repc } = .next w) :
    takeException e s = .next
      { (if contextOn e s then contextStore { w with md := { w.md with ie := false } }
        else { w with md := { w.md with ie := false } }) with pc := vectorOf e } := by
  rw [takeException, h, andThen_next]
  cases e with
  | trapBi => exact absurd rfl he
  | _ => rfl

/-- A change of dvm. -/
theorem sameRegsBut_setDvm (v : Word) (s : State) : SameRegsBut [.dvm] s { s with regs := { s.regs with dvm := v } } :=
  fun q hq => by cases q <;> first | exact absurd (List.mem_singleton.2 rfl) hq | rfl

/-- Settles O52: refused in its routine; outside it the entry of TRAP/BI with the cause bit set before. -/
theorem traps : Obligations.Traps := by
  unfold Obligations.Traps
  intro s
  refine ⟨fun h => if_pos h, fun w hout hrep hw => ?_⟩
  have hcause : ({ s.ocem with status0 := s.ocem.status0 ||| 0x8000#16 } : Ocem) = ocemCause 15 s.ocem := rfl
  rw [hcause] at hw
  obtain ⟨hregs, -, hfl, ⟨hmd, hsh, hctl, -⟩, hprog⟩ := dataWrite_keeps hw
  have hpush : push s.pc { s with ocem := ocemCause 15 s.ocem, ctl := suspendRepeat s.ctl s.regs.repc } = .next w := by
    rw [suspendRepeat_off hrep]
    exact hw
  have hexec : exec .trap s = takeException .trapBi { s with ocem := ocemCause 15 s.ocem } := if_neg (by simp [hout])
  have hset : (ocemCause 15 s.ocem).status0.getLsbD 15 = true := by
    rw [getLsbD_ocemCause (by decide), decide_eq_true rfl, Bool.or_true]
  have hplaces : SameRegsBut [.sp, .dvm] s { w with regs := { w.regs with dvm := s.pc } } :=
    sameRegsBut_trans (sameRegsBut_trans (operand_setSp _ s).regs hregs) (sameRegsBut_setDvm s.pc w)
  refine ⟨_, hexec.trans (takeException_trapBi hpush), ?_, ?_, hmd, hfl, hsh,
    fun ha => dataWrite_status0_rises hw ha hset, sameRegsBut_of_regs hplaces rfl,
    fun k h0 h1 => dataWrite_byte hw h0 h1, fun k => congrArg (memByte · k) hprog⟩
  · rw [hctl]
  · exact congrArg (·.regs.sp) (dataWrite_frame hw).1

end Sys2Proof.Machine
end

section
/-! Repeats and block repeats: how they start, and what the sequencing does at their ends. -/

namespace Sys2Proof.Machine

/-! ## rep -/

/-- A change of repc. -/
theorem sameRegsBut_setRepc (v : Word) (s : State) : SameRegsBut [.repc] s { s with regs := { s.regs with repc := v } } :=
  fun q hq => by cases q <;> first | exact absurd (List.mem_singleton.2 rfl) hq | rfl

section
variable {a : Word} {b s : State}

/-- With repetitions left the instruction is to run again (R420, D21). -/
theorem afterRepeat_again (hb : b.ctl.repActive = true) (ha : a = b.ctl.repAddr) (hn : s.regs.repc ≠ 0) :
    afterRepeat a b s = ({ s with
      ctl := { s.ctl with repResumed := false }, regs := { s.regs with repc := s.regs.repc - 1 }, pc := a }, true) := by
  rw [afterRepeat, if_pos (by simp [hb, ha])]
  dsimp only
  rw [if_neg (by simpa using hn)]

/-- After the last repetition the repeat is over. -/
theorem afterRepeat_last (hb : b.ctl.repActive = true) (ha : a = b.ctl.repAddr) (hn : s.regs.repc = 0) :
    afterRepeat a b s = ({ s with ctl := { s.ctl with repResumed := false, repActive := false } }, false) := by
  rw [afterRepeat, if_pos (by simp [hb, ha])]
  dsimp only
  rw [if_pos (by simpa using hn)]

end

theorem exec_repReg {r : Reg} (h : (Instr.repReg r).wf = true) (s : State) :
    exec (.repReg r) s = .next (startRepeat (readReg r s).1 (readReg r s).2) :=
  checkOperand_eq_next.2 ⟨Option.isNone_iff_eq_none.1 h, rfl⟩

/-- Settles O53: both forms are `startRepeat`, with the operand as it is read. -/
theorem repeats : Obligations.Repeats := by
  unfold Obligations.Repeats
  intro s starts
  have hstarts : ∀ n t, Operand [] s t → starts n t (startRepeat n t) := fun n t hop =>
    ⟨rfl, rfl, hop.pc, hop.fl, hop.pc, hop.system.1,
      sameRegsBut_of_regs (sameRegsBut_trans hop.regs (sameRegsBut_setRepc n t)) rfl, hop.memory, sameDevices_refl t⟩
  refine ⟨fun k => ⟨_, rfl, ?_⟩, fun r hwf => ⟨_, exec_repReg hwf s, hstarts _ _ (operand_readReg r s)⟩,
    fun b a hb ha => ⟨fun hn => ?_, fun hn => ?_⟩⟩
  · rw [BitVec.ofNat_toNat]
    exact hstarts _ _ (operand_refl s)
  · rw [afterRepeat_again hb ha hn]
    refine ⟨rfl, rfl, ?_⟩
    have : s.regs.repc.toNat ≠ 0 := fun h => hn (BitVec.eq_of_toNat_eq h)
    dsimp only
    rw [BitVec.toNat_sub_of_le (by bv_omega)]
    rfl
  · rw [afterRepeat_last hb ha hn]
    exact ⟨rfl, rfl, rfl⟩

/-! ## bkrep -/

/-- A block repeat to `last` can start (R422, R425). -/
def BlockFits (last : Word) (s : State) : Prop :=
  s.ctl.bc.toNat < 4 ∧ s.pc.toNat < last.toNat ∧
    (s.ctl.lp = true → last ≠ s.ctl.bkEnd ∧ ∀ f ∈ s.ctl.bkSaved, last ≠ f.last)

theorem blockFits_iff (last : Word) (s : State) : BlockFits last s ↔
    (4 ≤ s.ctl.bc.toNat || decide (last.toNat ≤ s.pc.toNat) ||
      (s.ctl.lp && (last == s.ctl.bkEnd || s.ctl.bkSaved.any fun f => last == f.last))) = false := by
  cases hlp : s.ctl.lp <;> simp [BlockFits, hlp, and_assoc]

theorem enterBlock_refused {n last : Word} {s : State} (h : ¬BlockFits last s) :
    enterBlock n last s = .refused (.sequence .blockShape) := by
  rw [blockFits_iff, Bool.not_eq_false] at h
  exact if_pos h

/-- A change of lc. -/
theorem sameRegsBut_setLc (v : Word) (s : State) : SameRegsBut [.lc] s { s with regs := { s.regs with lc := v } } :=
  fun q hq => by cases q <;> first | exact absurd (List.mem_singleton.2 rfl) hq | rfl

theorem enterBlock_next {n last : Word} {s : State} (h : BlockFits last s) : enterBlock n last s = .next { s with
    regs := { s.regs with lc := n }
    ctl := { s.ctl with
      bkSaved := if s.ctl.bc == 0 then s.ctl.bkSaved else ⟨s.ctl.bkStart, s.ctl.bkEnd, s.regs.lc⟩ :: s.ctl.bkSaved
      bkStart := s.pc
      bkEnd := last
      lp := true
      bc := s.ctl.bc + 1 } } := by
  rw [blockFits_iff] at h
  exact if_neg (by simp only [h]; decide)

theorem exec_bkrepReg {r : Reg} {last : Word} (h : (Instr.bkrepReg r last).wf = true) (s : State) :
    exec (.bkrepReg r last) s = enterBlock (readReg r s).1 last (readReg r s).2 := by
  have hrule : rule16 r = none := Option.isNone_iff_eq_none.1 h
  show checkOperand (rule16 r) _ = _
  rw [hrule]
  rfl

/-- Settles O54: both forms are `enterBlock`, which the reading of a register leaves the loop state of. -/
theorem blockRepeats : Obligations.BlockRepeats := by
  unfold Obligations.BlockRepeats
  intro s last ok starts
  have hfits : ∀ {t}, Operand [] s t → (BlockFits last t ↔ ok) := fun {t} hop => by
    rw [BlockFits, hop.system.2.2.1, hop.pc]
  have hstarts : ∀ n t, Operand [] s t → ok → Gives (enterBlock n last t) (starts n t) := fun n t hop h => by
    refine ⟨_, enterBlock_next ((hfits hop).2 h), rfl, hop.pc, rfl, rfl, ?_, fun hbc => ?_, hop.fl, hop.pc, hop.system.1,
      sameRegsBut_of_regs (sameRegsBut_trans hop.regs (sameRegsBut_setLc n t)) rfl, hop.memory, sameDevices_refl t⟩
    · show (t.ctl.bc + 1).toNat = _
      rw [hop.system.2.2.1, BitVec.toNat_add, Nat.mod_eq_of_lt]
      · rfl
      · have hlt : s.ctl.bc.toNat < 4 := h.1
        show s.ctl.bc.toNat + 1 < 2 ^ 3
        omega
    · have hlc : t.regs.lc = s.regs.lc := BitVec.eq_of_toNat_eq (hop.regs .lc nofun)
      dsimp only
      rw [hop.system.2.2.1, hlc, if_neg (by simpa using hbc)]
  have hrefused : ∀ n t, Operand [] s t → ¬ok → enterBlock n last t = .refused (.sequence .blockShape) :=
    fun n t hop h => enterBlock_refused (mt (hfits hop).1 h)
  refine ⟨fun k => ⟨fun h => ?_, hrefused _ s (operand_refl s)⟩, fun r hwf => ?_⟩
  · rw [BitVec.ofNat_toNat]
    exact hstarts _ s (operand_refl s) h
  · rw [exec_bkrepReg hwf]
    exact ⟨hstarts _ _ (operand_readReg r s), hrefused _ _ (operand_readReg r s)⟩

/-! ## The end of a level -/

section
variable {s : State}

/-- A clear of LP that waits for another level stays (R426, log 23). -/
theorem applyLpClear_other {n : BitVec 3} (h : s.ctl.lpClear ≠ some n) : applyLpClear n s = s :=
  if_neg (by simpa using h)

theorem leaveBlock_outer (h : s.ctl.bc.toNat ≤ 1) :
    leaveBlock s = { s with ctl := { s.ctl with bc := 0, lp := false } } := if_pos h

theorem leaveBlock_inner {f : BkFrame} {rest : List BkFrame} (h : 2 ≤ s.ctl.bc.toNat) (hs : s.ctl.bkSaved = f :: rest) :
    leaveBlock s = { s with
      regs := { s.regs with lc := f.lc }
      ctl := { s.ctl with bc := s.ctl.bc - 1, bkStart := f.first, bkEnd := f.last, bkSaved := rest } } := by
  rw [leaveBlock, if_neg (by omega), popBlock, hs]

theorem leaveBlock_lpClear (s : State) : (leaveBlock s).ctl.lpClear = s.ctl.lpClear := by
  unfold leaveBlock popBlock
  split
  · rfl
  · dsimp only
    split <;> rfl

theorem endBlock_outer (hw : s.ctl.lpClear ≠ some s.ctl.bc) (h : s.ctl.bc.toNat ≤ 1) :
    endBlock s = { s with ctl := { s.ctl with bc := 0, lp := false } } := by
  rw [endBlock, applyLpClear_other (by rw [leaveBlock_lpClear]; exact hw), leaveBlock_outer h]

theorem endBlock_inner {f : BkFrame} {rest : List BkFrame} (hw : s.ctl.lpClear ≠ some s.ctl.bc) (h : 2 ≤ s.ctl.bc.toNat)
    (hs : s.ctl.bkSaved = f :: rest) : endBlock s = { s with
      regs := { s.regs with lc := f.lc }
      ctl := { s.ctl with bc := s.ctl.bc - 1, bkStart := f.first, bkEnd := f.last, bkSaved := rest } } := by
  rw [endBlock, applyLpClear_other (by rw [leaveBlock_lpClear]; exact hw), leaveBlock_inner h hs]

/-- A clear of LP that waits for the level acts at its end: all levels are left. -/
theorem endBlock_cleared (hw : s.ctl.lpClear = some s.ctl.bc) : endBlock s = leaveAll (leaveBlock s) :=
  applyLpClear_some _ _ (by rw [leaveBlock_lpClear]; exact hw)

/-! ## The end of a pass -/

variable {next : Word}

theorem afterBlock_ends (hlp : s.ctl.lp = true) (hend : s.ctl.bkEnd = next - 1) (hpc : s.pc = next)
    (h : s.regs.lc = 0) : afterBlock next s = endBlock s := by
  rw [afterBlock, if_pos (by simp [hlp, hend, hpc]), if_pos (by simpa using h)]

/-- With passes left the body starts again; with MODE0 = 0 no breakpoint is on the way. -/
theorem afterBlock_again (hlp : s.ctl.lp = true) (hend : s.ctl.bkEnd = next - 1) (hpc : s.pc = next)
    (hmode : s.ocem.mode0 = 0) (h : s.regs.lc ≠ 0) : afterBlock next s = applyLpClear s.ctl.bc
      { s with regs := { s.regs with lc := s.regs.lc - 1 }, pc := s.ctl.bkStart } := by
  rw [afterBlock, if_pos (by simp [hlp, hend, hpc]), if_neg (by simpa using h)]
  dsimp only
  rw [if_neg (by simp [ocemArmed, hmode])]

end

theorem exec_brk {s : State} (h : s.ctl.bc ≠ 0) : exec .brk s = .next (endBlock s) :=
  congrArg Host.Outcome.next (if_neg (by simpa using h))

/-- Settles O55: break is `endBlock`, and so is the last pass; each end by the level and by the clear that waits. -/
theorem blockEnds : Obligations.BlockEnds := by
  unfold Obligations.BlockEnds
  intro s waits left
  have hone : s.ctl.bc = 1 → s.ctl.bc.toNat ≤ 1 := fun h => by rw [h]; decide
  have hframe := endBlock_frame s
  have hleft : waits → left (endBlock s) := fun h => by
    rw [endBlock_cleared h]
    exact ⟨rfl, rfl, rfl, rfl⟩
  refine ⟨fun h => congrArg Host.Outcome.next (if_pos (by simpa using h)), fun hw h => ?_, fun f rest hw h hs => ?_,
    fun hw h => ⟨_, exec_brk h, hleft hw, ?_, ?_, ?_, fun h1 => ?_⟩,
    fun next hlp hend hpc hmode => ⟨fun hw => ⟨fun h => ?_, fun h h1 => ?_, fun f rest h h2 hs => ?_⟩,
      fun hw => ⟨?_, fun h => ?_, fun h => ?_⟩⟩⟩
  · exact ⟨_, exec_brk (by rw [h]; decide), endBlock_outer hw (hone h)⟩
  · exact ⟨_, exec_brk (by rintro h0; simp [h0] at h), endBlock_inner hw h hs⟩
  · rw [hframe]
  · rw [hframe]
    exact sameRegsBut_of_regs (sameRegsBut_setLc _ s) rfl
  · rw [hframe]
  · rw [endBlock_cleared hw, leaveBlock_outer (hone h1)]
    rfl
  · rw [afterBlock_again hlp hend hpc hmode h]
    exact applyLpClear_other hw
  · rw [afterBlock_ends hlp hend hpc h, endBlock_outer hw (hone h1)]
  · rw [afterBlock_ends hlp hend hpc h, endBlock_inner hw h2 hs]
  · by_cases h : s.regs.lc = 0
    · rw [afterBlock_ends hlp hend hpc h]
      exact hleft hw
    · rw [afterBlock_again hlp hend hpc hmode h, applyLpClear_some _ _ (by exact hw)]
      exact ⟨rfl, rfl, rfl, rfl⟩
  · rw [afterBlock_again hlp hend hpc hmode h, applyLpClear_some _ _ (by exact hw)]
    exact ⟨rfl, rfl⟩
  · rw [afterBlock_ends hlp hend hpc h, hframe]
    exact hpc

end Sys2Proof.Machine
end

section
/-! Entering a service routine: the push, the context store, the sampling of the context enables, and the two records in
the trace buffer. -/

namespace Sys2Proof.Machine

/-! ## The entry -/

/-- The saved bits of st0 depend on the flags and on the two masks only. -/
theorem st0Shadowed_congr {s t : State} (hf : t.fl = s.fl) (h0 : t.md.im0 = s.md.im0) (h1 : t.md.im1 = s.md.im1) :
    st0Shadowed t = st0Shadowed s := by
  apply BitVec.eq_of_getLsbD_eq
  intro i hi
  rw [getLsbD_st0Shadowed t hi, getLsbD_st0Shadowed s hi, hf, h0, h1]

/-- The maskable interrupts and their vectors (R451). -/
theorem maskable_cases {p : Event × Word}
    (h : p ∈ [(Event.int0, 0x0006#16), (.int1, 0x000E#16), (.int2, 0x0016#16)]) : p.1 ≠ .trapBi ∧ vectorOf p.1 = p.2 := by
  simp only [List.mem_cons, List.not_mem_nil, or_false] at h
  rcases h with rfl | rfl | rfl <;> exact ⟨nofun, rfl⟩

/-- What the context store of an interrupt entry leaves, when the push took `s` to `w`. -/
theorem contextStore_entry {s w : State} {low : Word} {v : Word} {c : Control}
    (hw : dataWrite low v { s with regs := { s.regs with sp := low }, ctl := c } = .next w) :
    let u := contextStore { w with md := { w.md with ie := false } }
    u = { w with
      regs := { w.regs with a1 := s.regs.b1, b1 := s.regs.a1 }
      md := { s.md with ie := false, page := s.shadow.pageAlt }
      fl := u.fl
      shadow := {
        st0 := (st0Image s).extractLsb' 2 10, sat := s.md.sat, ps := s.md.ps, st2 := (st2Image s).extractLsb' 0 8,
        pageAlt := s.md.page } } ∧ ZMEN s.regs.b1 u.fl ∧ SameVCLR s.fl u.fl := by
  have hframe := (dataWrite_frame hw).1
  have hb1 : w.regs.b1 = s.regs.b1 := by rw [hframe]
  have ha1 : w.regs.a1 = s.regs.a1 := by rw [hframe]
  have hmd : w.md = s.md := by rw [hframe]
  have hsh : w.shadow = s.shadow := by rw [hframe]
  have hst0 : st0Shadowed { w with md := { w.md with ie := false } } = st0Shadowed s := by
    rw [hframe]
    exact st0Shadowed_congr rfl rfl rfl
  refine ⟨?_, ?_, ?_⟩
  · show { w with
      regs := { w.regs with a1 := w.regs.b1, b1 := w.regs.a1 }
      md := { w.md with ie := false, page := w.shadow.pageAlt }
      fl := (contextStore { w with md := { w.md with ie := false } }).fl
      shadow := {
        st0 := st0Shadowed { w with md := { w.md with ie := false } }, sat := w.md.sat, ps := w.md.ps,
        st2 := st2Low w, pageAlt := w.md.page } } = _
    rw [hst0, hb1, ha1, hsh, st2Image_low]
    dsimp only [st2Low]
    rw [hmd]
    rfl
  · rw [hframe]
    exact ZMEN_setFlags36 ..
  · rw [hframe]
    exact ⟨rfl, rfl, rfl, rfl⟩

/-! ## BI -/

/-- A data write never touches the BI request when no breakpoint is enabled. -/
theorem dataWrite_biReq {a v : Word} {s t : State} (h : dataWrite a v s = .next t) (hmode : s.ocem.mode0 = 0) :
    t.ocem.biReq = s.ocem.biReq := by
  rw [dataWrite_unwatched (.inl hmode)] at h
  unfold dataWriteRaw at h
  split at h
  · cases h; rfl
  · dsimp only at h
    split at h <;> (cases h; rfl)
  · cases h; rfl
  · cases h; rfl
  · cases h
    dsimp only
    unfold ocemWrite
    split <;> rfl
  · cases h

/-- Putting a repeat aside touches no other field of the loop and return state. -/
theorem suspendRepeat_frame (c : Control) (w : Word) : suspendRepeat c w = { c with
    repActive := (suspendRepeat c w).repActive
    repSuspended := (suspendRepeat c w).repSuspended
    repSaved := (suspendRepeat c w).repSaved
    repSavedAddr := (suspendRepeat c w).repSavedAddr
    repResumed := (suspendRepeat c w).repResumed } := by
  unfold suspendRepeat
  split <;> rfl

/-- What BI leaves (R468, R512). -/
theorem takeBi_effect {s u : State} (h : takeBi s = .next u) :
    u.ctl.inTrap = true ∧ u.ctl.trapRet = false ∧ u.ctl.stepArmed = false ∧
      (s.ocem.mode0 = 0 → u.ocem.biReq = false) ∧ u.pc = 0x0002#16 ∧ u.regs.dvm = s.pc ∧ u.md = s.md ∧
      u.ocem.trace = s.ocem.trace := by
  obtain ⟨w, hpush, -, hu, -⟩ := takeException_next h
  obtain ⟨-, -, -, ⟨hmd, -, hctl, -⟩, -⟩ := dataWrite_keeps hpush
  rw [hu rfl]
  refine ⟨rfl, ?_, ?_, fun hmode => dataWrite_biReq hpush hmode, rfl, rfl, hmd, (dataWrite_trace hpush :)⟩
  · dsimp only
    rw [hctl]
    dsimp only
    rw [suspendRepeat_frame]
  · dsimp only
    rw [hctl]
    dsimp only
    rw [suspendRepeat_frame]

/-! ## The context enables -/

/-- The enables an entry sees, when `icPrev` was sampled from the modes of `x` (R571). -/
theorem contextOn_of_icPrev {u x : State} (h : u.tm.icPrev = icBits x) : contextOn .int0 u = x.md.ic0 ∧
    contextOn .int1 u = x.md.ic1 ∧ contextOn .int2 u = x.md.ic2 ∧ contextOn .trapBi u = false := by
  unfold contextOn icBits at *
  rw [h]
  cases x.md.ic0 <;> cases x.md.ic1 <;> cases x.md.ic2 <;> exact ⟨rfl, rfl, rfl, rfl⟩

theorem afterRepeat_md (a : Word) (b s : State) : (afterRepeat a b s).1.md = s.md := by
  unfold afterRepeat
  split_ifs <;> rfl

theorem afterBlock_md (next : Word) (s : State) : (afterBlock next s).md = s.md := by
  unfold afterBlock
  split
  · split
    · rw [endBlock_frame]
    · dsimp only
      rw [applyLpClear_frame]
      split <;> rfl
  · rfl

theorem afterDelay_md (n : Nat) (b s : State) : (afterDelay n b s).md = s.md := by
  by_cases h0 : b.ctl.delayCount = 0
  · rw [afterDelay, if_pos h0]
  · rcases Nat.lt_or_ge n b.ctl.delayCount with h | h
    · rw [afterDelay_waits h0 h]
    · rw [afterDelay_lands h0 h, returnTo_frame]

/-- The sequencing leaves the modes. -/
theorem afterInstr_md (i : Instr) (a : Word) (b s : State) : (afterInstr i a b s).md = s.md := by
  unfold afterInstr
  dsimp only
  rw [afterTrapRet_frame, afterData_frame]
  dsimp only
  rw [afterDelay_md]
  split
  · rw [afterRepeat_md, ocemJump_frame]
  · rw [afterBlock_md, afterRepeat_md, ocemJump_frame]

/-- Right after a write of icr an entry sees the enables before that write (R571). -/
theorem afterInstr_icPrev (i : Instr) (a : Word) (b s : State) :
    (writesIcr i → (afterInstr i a b s).tm.icPrev = icBits b) ∧
      (¬writesIcr i → (afterInstr i a b s).tm.icPrev = icBits s) := by
  rw [← kind_icrWrite_iff]
  have hmd := afterInstr_md i a b s
  refine ⟨fun h => if_pos (beq_iff_eq.2 h), fun h => (if_neg (mt beq_iff_eq.1 h)).trans ?_⟩
  show icBits (afterInstr i a b s) = _
  unfold icBits
  rw [hmd]

/-! ## The records of an entry -/

/-- With TBFE clear a push breaks nothing. -/
theorem tracePush_quiet (e : TraceEntry) {s : State} (h : s.ocem.mode0.getLsbD 12 = false) :
    tracePush e s = { s with ocem := { s.ocem with trace := (tracePush e s).ocem.trace } } := by
  unfold tracePush
  dsimp only
  rw [h]
  rfl

theorem traceTwo_quiet (src dst : Word) {s : State} (h : s.ocem.mode0.getLsbD 12 = false) :
    traceTwo src dst s = { s with ocem := { s.ocem with trace := (traceTwo src dst s).ocem.trace } } := by
  unfold traceTwo
  have h1 := tracePush_quiet ⟨false, src⟩ h
  generalize tracePush ⟨false, src⟩ s = t at h1 ⊢
  rw [tracePush_quiet ⟨false, dst⟩ (by rw [h1]; exact h)]
  generalize (tracePush ⟨false, dst⟩ t).ocem.trace = l
  rw [h1]

/-- The last two stages after two records, and the fourteen before them. -/
theorem traceAfter_two_stages (old : List TraceEntry) (h : old.length = 16) (e f : TraceEntry) :
    (traceAfter old [e, f]).drop 14 = [e, f] ∧
      (traceUnused ∉ old → (traceAfter old [e, f]).take 14 = old.drop 2) := by
  have hk := List.length_filter_le (· ≠ traceUnused) old
  have hall : traceUnused ∉ old → old.filter (· ≠ traceUnused) = old := fun hu =>
    List.filter_eq_self.2 fun x hx => by simpa using fun he : x = traceUnused => hu (he ▸ hx)
  unfold traceAfter
  generalize old.filter (· ≠ traceUnused) = kept at hk hall ⊢
  dsimp only
  have hsplit : (kept ++ [e, f]).drop ((kept ++ [e, f]).length - 16) = kept.drop (kept.length - 14) ++ [e, f] := by
    rw [List.length_append, show [e, f].length = 2 from rfl, List.drop_append_of_le_length (by omega),
      show kept.length + 2 - 16 = kept.length - 14 by omega]
  have hlen : (List.replicate (16 - (kept ++ [e, f]).length) traceUnused ++ kept.drop (kept.length - 14)).length = 14 := by
    simp
    omega
  rw [hsplit, ← List.append_assoc]
  refine ⟨List.drop_left' hlen, fun hu => (List.take_left' hlen).trans ?_⟩
  rw [hall hu, List.length_append, h]
  rfl

/-- What the step runs for a maskable interrupt, after its entry. -/
theorem takeInterrupt_of_next {e : Event} {s t : State} (h : takeException e s = .next t) :
    let u := traceTwo s.tm.lastAddr (vectorOf e) { t with tm := { t.tm with icPrev := icBits t } }
    takeInterrupt e s = .next (if ocemArmed 11 u then ocemBreak 12 u else u) := by
  rw [takeInterrupt, h, andThen_next]

theorem traceTwo_mode0 (src dst : Word) (s : State) : (traceTwo src dst s).ocem.mode0 = s.ocem.mode0 :=
  (tracePush_tbf _ _).2.2.2.trans (tracePush_tbf _ s).2.2.2

/-- INTE breaks exactly when it is set outside the TRAP/BI routine (R513). -/
theorem ocemArmed_traceTwo (k : Nat) (src dst : Word) (s : State) :
    ocemArmed k (traceTwo src dst s) = ocemArmed k s := by
  rw [ocemArmed, traceTwo_mode0, traceTwo_ctl]
  rfl

/-- Settles O57: the entry by its push; BI; the sampling after an instruction; the two records of an interrupt. -/
theorem interruptEntry : Obligations.InterruptEntry := by
  unfold Obligations.InterruptEntry
  refine ⟨fun s w => ?_, fun s u h => takeBi_effect h, fun i a b t => ?_,
    fun s t p hp ht => ⟨fun hmode => ?_, fun hinte hout => ?_⟩⟩
  · intro low c hw
    have hpush : push s.pc { s with ctl := suspendRepeat s.ctl s.regs.repc } = .next w := hw
    have hwrite : dataWrite low s.pc { s with regs := { s.regs with sp := low }, ctl := c } = .next w := hw
    have hregs : w.regs = { s.regs with sp := low } := by rw [(dataWrite_frame hwrite).1]
    obtain ⟨-, hbytes, hprog, hword, -, hpc, hfl, hmd, hsh, hctl, -⟩ :=
      stored_of_dataWrite (s := { s with ctl := c }) (t := s) hwrite (operand_setSp low { s with ctl := c }).regs rfl rfl
        (sameSystem_refl _) rfl rfl
    refine ⟨⟨sameRegsBut_of_regs (operand_setSp low s).regs hregs, congrArg Regs.sp hregs, hmd, hfl, hsh, hctl, hprog,
      hbytes, hword⟩, fun p hp => ?_, ⟨_, takeException_trapBi hpush, ?_⟩⟩
    · obtain ⟨hne, hvec⟩ := maskable_cases hp
      refine ⟨_, takeException_maskable hne hpush, fun hoff => ?_, fun hon => ?_⟩
      · rw [hoff, hvec, hmd]
        rfl
      · rw [hon, hvec]
        obtain ⟨hu, hzmen, hkeep⟩ := contextStore_entry hwrite
        refine ⟨?_, hzmen, hkeep⟩
        exact congrArg (fun x : State => { x with pc := p.2 }) hu
    · rw [hctl]
  · refine ⟨afterInstr_md i a b t, ?_⟩
    obtain ⟨hwrites, hother⟩ := afterInstr_icPrev i a b t
    split
    next => exact contextOn_of_icPrev (hwrites trivial)
    next => exact contextOn_of_icPrev (hwrites trivial)
    next h1 h2 =>
      refine contextOn_of_icPrev (hother ?_)
      rw [writesIcr_iff]
      rintro (⟨r, rfl⟩ | ⟨v, rfl⟩)
      · exact h1 r rfl
      · exact h2 v rfl
  · obtain ⟨-, hvec⟩ := maskable_cases hp
    obtain ⟨h0, h1, h2, -⟩ := contextOn_of_icPrev (u := { t with tm := { t.tm with icPrev := icBits t } }) (x := t) rfl
    have hrun := takeInterrupt_of_next ht
    dsimp only at hrun
    rw [ocemArmed_traceTwo, if_neg (by simp [ocemArmed, hmode]), hvec, traceTwo_quiet _ _ (by simp [hmode])] at hrun
    refine ⟨_, hrun, rfl, h0, h1, h2, fun hlen => ?_⟩
    have htrace := (traceTwo_takes s.tm.lastAddr p.2 { t with tm := { t.tm with icPrev := icBits t } } hlen).1
    dsimp only at htrace ⊢
    rw [htrace]
    exact traceAfter_two_stages _ hlen _ _
  · obtain ⟨-, hvec⟩ := maskable_cases hp
    obtain ⟨-, -, hpc, -⟩ := takeException_next ht
    have hrun := takeInterrupt_of_next ht
    dsimp only at hrun
    rw [ocemArmed_traceTwo, if_pos (by simp [ocemArmed, hinte, hout, -BitVec.getLsbD_eq_getElem])] at hrun
    refine ⟨_, hrun, rfl, ?_, ?_⟩
    · exact (getLsbD_ocemCause (by decide) 12 _).trans (by simp)
    · rw [ocemBreak_frame, traceTwo_frame]
      exact hpc.trans hvec

end Sys2Proof.Machine
end

section
/-! When an interrupt is taken, and the delays of Table 14. -/

namespace Sys2Proof.Machine

/-! ## Acceptance -/

/-- The boundary after an instruction is open to interrupts (R462). -/
def BoundaryOpen (s : State) : Prop :=
  s.ctl.inTrap = false ∧ s.ctl.delayCount = 0 ∧ ¬(s.ctl.repSuspended = true ∧ s.ctl.repActive = true)

section
variable (s : State)

theorem interruptible_iff : interruptible s = true ↔ BoundaryOpen s := by
  unfold interruptible BoundaryOpen
  cases s.ctl.repSuspended <;> simp [and_assoc]

theorem biAccepted_iff : biAccepted s = true ↔ s.ocem.biReq = true ∧ BoundaryOpen s ∧ s.tm.delayBi = 0 := by
  simp [biAccepted, interruptible_iff, and_assoc]

theorem int0Line_iff : int0Line s = true ↔ s.dpmb.ois.toNat ≠ 0 := by
  rw [int0Line, bne_iff_ne, ne_eq, ← BitVec.toNat_inj]
  rfl

/-- INT1 is the level of any enabled latch (R538). -/
theorem int1Line_iff : int1Line s = true ↔
    ∃ p ∈ [(0, 2), (1, 3), (5, 4), (2, 5), (3, 6), (4, 7), (6, 8)],
      s.codec.sts.getLsbD p.1 = true ∧ s.codec.cnt.getLsbD p.2 = true := by
  simp [int1Line, or_assoc]

/-- Nothing of INT0 and INT1 holds back what is needed for either (R462, R464). -/
def MaskableOpen (s : State) : Prop := BoundaryOpen s ∧ s.md.ie = true ∧ 3 ≤ s.tm.fetches ∧ s.tm.delay01 = 0

/-- The maskable interrupt that is taken, INT2 being connected to nothing (R55, R71). -/
theorem intAccepted_eq [Decidable (MaskableOpen s)] : intAccepted s =
    if MaskableOpen s then
      if int0Line s = true ∧ s.md.im0 = true then some .int0
      else if s.md.im1 = true ∧ int1Line s = true then some .int1 else none
    else none := by
  unfold intAccepted
  have hgate : (interruptible s && s.md.ie && decide (3 ≤ s.tm.fetches)) = true ∧ s.tm.delay01 = 0 ↔ MaskableOpen s := by
    simp [MaskableOpen, interruptible_iff, and_assoc]
  by_cases hd : s.tm.delay01 = 0
  · simp only [hd, and_true] at hgate
    simp [← hgate, hd, int2Line, and_comm (a := s.md.im1 = true)]
  · rw [if_neg (fun h => hd (hgate.2 h).2)]
    simp [hd, int2Line]

theorem intAccepted_int0_iff :
    intAccepted s = some .int0 ↔ MaskableOpen s ∧ s.dpmb.ois.toNat ≠ 0 ∧ s.md.im0 = true := by
  classical
  rw [intAccepted_eq, ← int0Line_iff]
  split_ifs <;> simp [*]

theorem intAccepted_int1_iff : intAccepted s = some .int1 ↔
    MaskableOpen s ∧ ¬(s.dpmb.ois.toNat ≠ 0 ∧ s.md.im0 = true) ∧ s.md.im1 = true ∧ int1Line s = true := by
  classical
  rw [intAccepted_eq, ← int0Line_iff]
  split_ifs <;> simp [*]

/-- Only INT0 and INT1 are ever taken. -/
theorem intAccepted_cases : intAccepted s = none ∨ intAccepted s = some .int0 ∨ intAccepted s = some .int1 := by
  classical
  rw [intAccepted_eq]
  split_ifs <;> simp

end

theorem intAccepted_none {s : State} (h : ¬MaskableOpen s) : intAccepted s = none := by
  classical
  rw [intAccepted_eq, if_neg h]

/-! ## The order of a step -/

section
variable {s : State}

theorem step_biAccepted (hin : s.inputs = []) (h : biAccepted s = true) : step s = takeBi s := by
  rw [step, agentStep_of_no_inputs hin, andThen_next, coreStep, if_pos h]

theorem step_intAccepted {e : Event} (hin : s.inputs = []) (hbi : biAccepted s = false) (h : intAccepted s = some e) :
    step s = takeInterrupt e s := by
  rw [step, agentStep_of_no_inputs hin, andThen_next, coreStep, if_neg (by simp [hbi]), h]

/-- A program breakpoint on the fetch is taken before the instruction runs (R508). -/
theorem step_fetchBreak (hin : s.inputs = []) (hbi : biAccepted s = false) (hint : intAccepted s = none)
    (h : biAccepted (ocemFetch s.pc s) = true) : step s = takeBi (ocemFetch s.pc s) := by
  rw [step, agentStep_of_no_inputs hin, andThen_next, coreStep, if_neg (by simp [hbi]), hint]
  exact if_pos h

end

/-! ## Table 14 -/

/-- The longest of the delays of the active rows, in one of the three columns `f`. -/
theorem foldl_maxDelays {f : Nat × Nat × Nat → Nat} (hf : ∀ d e, f (maxDelays d e) = max (f d) (f e))
    (rows : List (Bool × Nat × Nat × Nat)) (d : Nat × Nat × Nat) :
    let e := rows.foldl (fun d r => if r.1 then maxDelays d r.2 else d) d
    f d ≤ f e ∧ (∀ r ∈ rows, r.1 = true → f r.2 ≤ f e) ∧ (f e = f d ∨ ∃ r ∈ rows, r.1 = true ∧ f e = f r.2) := by
  induction rows generalizing d with
  | nil => simp
  | cons r rows ih =>
    obtain ⟨hle, hrows, hone⟩ := ih (if r.1 then maxDelays d r.2 else d)
    simp only [List.foldl_cons]
    generalize rows.foldl _ _ = e at hle hrows hone ⊢
    cases hr : r.1
    · simp only [hr] at hle hone
      refine ⟨hle, fun x hx h => ?_, ?_⟩
      · rcases List.mem_cons.1 hx with rfl | hx
        · simp [hr] at h
        · exact hrows x hx h
      · exact hone.imp_right fun ⟨x, hx, h⟩ => ⟨x, List.mem_cons_of_mem _ hx, h⟩
    · simp only [hr, if_true, hf] at hle hone
      refine ⟨by omega, fun x hx h => ?_, ?_⟩
      · rcases List.mem_cons.1 hx with rfl | hx
        · omega
        · exact hrows x hx h
      · rcases hone with hone | ⟨x, hx, h⟩
        · rcases Nat.le_total (f d) (f r.2) with hm | hm
          · exact .inr ⟨r, List.mem_cons_self, hr, by omega⟩
          · exact .inl (by omega)
        · exact .inr ⟨x, List.mem_cons_of_mem _ hx, h⟩

section
variable (i : Instr) {r : Reg}

theorem kind_pop_iff : (instrInfo i).kind = .pop ↔ ∃ q, i = .pop q := by
  cases i <;> simp [instrInfo, infoPlain, infoTwo, ite_eq_iff]

/-- A write of a register is a move, a bit-field operation or pop. -/
theorem kind_of_writes (h : writesReg i r) :
    (instrInfo i).kind ∈ [Kind.mov, .mixpRead, .movp, .bitField, .pop] := by
  cases i <;> simp_all [instrInfo, infoPlain, infoTwo, writesReg]

theorem kind_pop_iff_of_writes (h : writesReg i r) : (instrInfo i).kind = .pop ↔ i = .pop r := by
  rw [kind_pop_iff]
  refine ⟨?_, fun h => ⟨r, h⟩⟩
  rintro ⟨q, rfl⟩
  exact congrArg Instr.pop h

/-- Of the writes of a register the moves are those but pop. -/
theorem moves_iff_of_writes (h : writesReg i r) :
    [Kind.mov, .mixpRead, .movp, .bitField].contains (instrInfo i).kind = true ↔ i ≠ .pop r := by
  rw [ne_eq, ← kind_pop_iff_of_writes i h]
  have hk := kind_of_writes i h
  generalize (instrInfo i).kind = k at hk
  simp only [List.mem_cons, List.not_mem_nil, or_false] at hk
  rcases hk with rfl | rfl | rfl | rfl | rfl <;> decide

/-- Of the writes of a register the plain moves are those but pop and the bit-field operations. -/
theorem plainMoves_iff_of_writes (h : writesReg i r) :
    [Kind.mov, .mixpRead, .movp].contains (instrInfo i).kind = true ↔ i ≠ .pop r ∧ ¬isBitFieldReg i := by
  rw [ne_eq, ← kind_pop_iff_of_writes i h, ← kind_bitField_iff i r h]
  have hk := kind_of_writes i h
  generalize (instrInfo i).kind = k at hk
  simp only [List.mem_cons, List.not_mem_nil, or_false] at hk
  rcases hk with rfl | rfl | rfl | rfl | rfl <;> decide

/-- The transfers that are delayed by the row of those not taken (R464). -/
def untaken (b : State) : Prop :=
  match i with
  | .br _ cc | .call _ cc | .ret cc | .reti cc _ => condHolds cc b = false
  | _ => False

theorem untaken_iff (b : State) :
    ([Kind.br, .call, .ret, .reti].contains (instrInfo i).kind && !isTaken (instrInfo i) b) = true ↔ untaken i b := by
  cases i with
  | movSpecAcc src _ => cases src <;> simp [instrInfo, infoPlain, untaken]
  | _ => simp [instrInfo, infoPlain, infoTwo, untaken, isTaken]

/-- retd, retid and rep. -/
def holdsBoth : Prop :=
  match i with
  | .retd | .retid | .repReg _ | .repShort _ => True
  | _ => False

theorem holdsBoth_iff : [Kind.retd, .retid, .rep].contains (instrInfo i).kind = true ↔ holdsBoth i := by
  cases i with
  | movSpecAcc src _ => cases src <;> simp [instrInfo, infoPlain, holdsBoth]
  | _ => simp [instrInfo, infoPlain, infoTwo, holdsBoth]

/-- `i` writes `r`, and not by mov ##long. -/
def shortWrite (r : Reg) : Prop := writesReg i r ∧ ∀ v, i ≠ .movLongReg v r

/-- `i` is mov ##long immediate, `r`. -/
def longWrite (r : Reg) : Prop := ∃ v, i = .movLongReg v r

variable {i} in
theorem longWrite_writes (h : longWrite i r) : writesReg i r := by
  obtain ⟨v, rfl⟩ := h
  exact rfl

/-- A row for the writes of a register with one delay for mov ##long and another for the other writes, as two rows. -/
theorem writeRow_iff {p : Prop} {x y d : Nat × Nat × Nat} (hp : longWrite i r → p) :
    (writesReg i r ∧ p) ∧ (if (instrInfo i).longImm then x else y) = d ↔
      (shortWrite i r ∧ p) ∧ y = d ∨ longWrite i r ∧ x = d := by
  by_cases hw : writesReg i r
  · have hlong : (instrInfo i).longImm = true ↔ longWrite i r := longImm_iff_of_writes i r hw
    by_cases hl : longWrite i r
    · have hs : ¬shortWrite i r := fun h => hl.elim h.2
      simp [hw, hl, hs, hlong.2 hl, hp hl]
    · have hs : shortWrite i r := ⟨hw, fun v h => hl ⟨v, h⟩⟩
      simp [hw, hl, hs, Bool.not_eq_true _ ▸ mt hlong.1 hl]
  · have hl : ¬longWrite i r := mt longWrite_writes hw
    have hs : ¬shortWrite i r := fun h => hw h.1
    simp [hw, hl, hs]

theorem anyWriteRow_iff {x y d : Nat × Nat × Nat} :
    writesReg i r ∧ (if (instrInfo i).longImm then x else y) = d ↔ shortWrite i r ∧ y = d ∨ longWrite i r ∧ x = d := by
  simpa using writeRow_iff i (r := r) (p := True) (x := x) (y := y) (d := d) fun _ => trivial

end

/-- The rows of Table 14 as the step has them (R464). -/
def tableRows (f : InstrInfo) (a : Word) (b : State) : List (Bool × Nat × Nat × Nat) :=
  let moves := [Kind.mov, .mixpRead, .movp, .bitField].contains f.kind
  let repeated := b.ctl.repActive && a == b.ctl.repAddr
  [([Kind.br, .call, .ret, .reti].contains f.kind && !isTaken f b, 1, 1, 0),
    (f.dst == some .sp && moves && !f.longImm, 1, 1, 0),
    (repeated && b.regs.repc == 0, 1, 1, 1),
    (repeated && b.ctl.repResumed, 1, 1, 0),
    (b.ctl.trapRet, 1, 1, 0),
    (f.dst == some .st0 && (moves || f.kind == .pop), if f.longImm then (1, 1, 0) else (2, 2, 0)),
    (f.dst == some .st2 && (moves || f.kind == .pop), if f.longImm then (0, 1, 0) else (1, 2, 0)),
    ([Kind.retd, .retid, .rep].contains f.kind, 2, 2, 2),
    (f.dst == some .pc && [Kind.mov, .mixpRead, .movp].contains f.kind, if f.longImm then (1, 1, 1) else (2, 2, 2))]

theorem interruptDelays_eq (f : InstrInfo) (a : Word) (b : State) : interruptDelays f a b =
    (tableRows f a b).foldl (fun d r => if r.1 then maxDelays d r.2 else d) (0, 0, 0) := rfl

section
variable (i : Instr) (a : Word) (b : State)

/-- The first row on a register: sp but by pop (R464). -/
theorem spRow_iff : ((instrInfo i).dst == some .sp && [Kind.mov, .mixpRead, .movp, .bitField].contains (instrInfo i).kind &&
    !(instrInfo i).longImm) = true ↔ shortWrite i .sp ∧ i ≠ .pop .sp := by
  rw [Bool.and_eq_true, Bool.and_eq_true, beq_iff_eq, dst_iff, Bool.not_eq_true', ← Bool.not_eq_true, shortWrite, and_assoc,
    and_assoc]
  refine and_congr_right fun hw => ?_
  rw [moves_iff_of_writes i hw, longImm_iff_of_writes i _ hw, not_exists, and_comm]

/-- st0 and st2, by any write. -/
theorem statusRow_iff (r : Reg) : ((instrInfo i).dst == some r &&
    ([Kind.mov, .mixpRead, .movp, .bitField].contains (instrInfo i).kind || (instrInfo i).kind == .pop)) = true ↔
      writesReg i r := by
  rw [Bool.and_eq_true, beq_iff_eq, dst_iff]
  refine and_iff_left_of_imp fun hw => ?_
  rw [Bool.or_eq_true, moves_iff_of_writes i hw, beq_iff_eq, kind_pop_iff_of_writes i hw]
  exact ne_or_eq _ _

/-- pc, by the plain moves. -/
theorem pcRow_iff : ((instrInfo i).dst == some .pc && [Kind.mov, .mixpRead, .movp].contains (instrInfo i).kind) = true ↔
    writesReg i .pc ∧ i ≠ .pop .pc ∧ ¬isBitFieldReg i := by
  rw [Bool.and_eq_true, beq_iff_eq, dst_iff]
  exact and_congr_right fun hw => plainMoves_iff_of_writes i hw

/-- The rows of R464 by name. -/
theorem delayRows_eq : delayRows i a b =
    [(untaken i b, 1, 1, 0), (shortWrite i .sp ∧ i ≠ .pop .sp, 1, 1, 0),
      ((b.ctl.repActive = true ∧ a = b.ctl.repAddr) ∧ b.regs.repc = 0, 1, 1, 1),
      ((b.ctl.repActive = true ∧ a = b.ctl.repAddr) ∧ b.ctl.repResumed = true, 1, 1, 0),
      (b.ctl.trapRet = true, 1, 1, 0), (shortWrite i .st0, 2, 2, 0), (longWrite i .st0, 1, 1, 0),
      (shortWrite i .st2, 1, 2, 0), (longWrite i .st2, 0, 1, 0), (holdsBoth i, 2, 2, 2),
      (shortWrite i .pc ∧ i ≠ .pop .pc ∧ ¬isBitFieldReg i, 2, 2, 2), (longWrite i .pc, 1, 1, 1)] := rfl

/-- The active rows of the step are those of R464, form by form. -/
theorem tableRows_iff (d : Nat × Nat × Nat) : (∃ r ∈ tableRows (instrInfo i) a b, r.1 = true ∧ r.2 = d) ↔
    ∃ r ∈ delayRows i a b, r.1 ∧ r.2 = d := by
  have hpc : longWrite i .pc → i ≠ .pop .pc ∧ ¬isBitFieldReg i := by
    rintro ⟨v, rfl⟩
    exact ⟨nofun, id⟩
  have hrep : (b.ctl.repActive && a == b.ctl.repAddr) = true ↔ b.ctl.repActive = true ∧ a = b.ctl.repAddr := by simp
  rw [delayRows_eq]
  dsimp only [tableRows]
  simp only [List.mem_cons, List.not_mem_nil, or_false, or_and_right, exists_or, exists_eq_left]
  simp only [untaken_iff, spRow_iff, statusRow_iff, pcRow_iff, holdsBoth_iff]
  simp only [Bool.and_eq_true, hrep, beq_iff_eq, writeRow_iff i hpc, anyWriteRow_iff, or_assoc]

/-- One column `f` of the delays after an instruction, `k` of its cycles being left from before: no active row is longer,
and the delay is `k` or that of an active row. -/
theorem delayColumn {f : Nat × Nat × Nat → Nat} (hf : ∀ d e, f (maxDelays d e) = max (f d) (f e))
    (h0 : f (0, 0, 0) = 0) (k : Nat) :
    let m := max k (f (interruptDelays (instrInfo i) a b))
    (∀ r ∈ delayRows i a b, r.1 → f r.2 ≤ m) ∧ k ≤ m ∧ (m = k ∨ ∃ r ∈ delayRows i a b, r.1 ∧ m = f r.2) := by
  obtain ⟨-, hrows, hone⟩ := foldl_maxDelays hf (tableRows (instrInfo i) a b) (0, 0, 0)
  rw [← interruptDelays_eq] at hrows hone
  refine ⟨fun r hr hact => ?_, Nat.le_max_left .., ?_⟩
  · obtain ⟨q, hq, hqact, hqr⟩ := (tableRows_iff i a b r.2).2 ⟨r, hr, hact, rfl⟩
    exact hqr ▸ (hrows q hq hqact).trans (Nat.le_max_right ..)
  · rcases hone with hone | ⟨q, hq, hqact, hone⟩
    · exact .inl (by omega)
    · obtain ⟨r, hr, hact, hrq⟩ := (tableRows_iff i a b q.2).1 ⟨q, hq, hqact, rfl⟩
      rcases Nat.le_total (f (interruptDelays (instrInfo i) a b)) k with hle | hle
      · exact .inl (Nat.max_eq_left hle)
      · exact .inr ⟨r, hr, hact, by rw [Nat.max_eq_right hle, hone, hrq]⟩

/-- The three counters after an instruction (R464). -/
theorem afterInstr_delays (t : State) :
    let m := (afterInstr i a b t).tm
    let n := cyclesOf (instrInfo i) b
    let d := interruptDelays (instrInfo i) a b
    m.delay01 = max (b.tm.delay01 - n) d.1 ∧ m.delay2 = max (b.tm.delay2 - n) d.2.1 ∧
      m.delayBi = max (b.tm.delayBi - n) d.2.2 := ⟨rfl, rfl, rfl⟩

/-- An active row holds off INT0 and INT1, and BI, for its cycles. -/
theorem afterInstr_row (t : State) {p : Prop} {d : Nat × Nat × Nat} (hr : (p, d) ∈ delayRows i a b) (hp : p) :
    d.1 ≤ (afterInstr i a b t).tm.delay01 ∧ d.2.1 ≤ (afterInstr i a b t).tm.delay2 ∧
      d.2.2 ≤ (afterInstr i a b t).tm.delayBi := by
  obtain ⟨h01, h2, hbi⟩ := afterInstr_delays i a b t
  rw [h01, h2, hbi]
  exact ⟨(delayColumn i a b (f := fun d => d.1) (fun _ _ => rfl) rfl _).1 (p, d) hr hp,
    (delayColumn i a b (f := fun d => d.2.1) (fun _ _ => rfl) rfl _).1 (p, d) hr hp,
    (delayColumn i a b (f := fun d => d.2.2) (fun _ _ => rfl) rfl _).1 (p, d) hr hp⟩

theorem intAccepted_of_delay01 {s : State} (h : 1 ≤ s.tm.delay01) : intAccepted s = none := by
  refine intAccepted_none fun hm => ?_
  obtain ⟨-, -, -, h0⟩ := hm
  omega

theorem biAccepted_of_delayBi {s : State} (h : 1 ≤ s.tm.delayBi) : biAccepted s = false := by
  rw [← Bool.not_eq_true, biAccepted_iff]
  rintro ⟨-, -, h0⟩
  omega

/-- After the last repetition nothing is taken (R420, R462). -/
theorem notAccepted_after_lastRepetition (t : State) (hb : b.ctl.repActive = true) (ha : a = b.ctl.repAddr)
    (hn : b.regs.repc = 0) :
    biAccepted (afterInstr i a b t) = false ∧ intAccepted (afterInstr i a b t) = none := by
  have hrow : (b.ctl.repActive = true ∧ a = b.ctl.repAddr) ∧ b.regs.repc = 0 := ⟨⟨hb, ha⟩, hn⟩
  obtain ⟨h01, -, hbi⟩ := afterInstr_row i a b t (d := (1, 1, 1)) (by rw [delayRows_eq]; simp) hrow
  exact ⟨biAccepted_of_delayBi hbi, intAccepted_of_delay01 h01⟩

/-- Right after a TRAP/BI return or a write of st0 no maskable interrupt is taken (R464). -/
theorem notAccepted_after_trapRet_or_st0 (t : State) (h : b.ctl.trapRet = true ∨ writesReg i .st0) :
    intAccepted (afterInstr i a b t) = none := by
  rcases h with h | h
  · exact intAccepted_of_delay01 (afterInstr_row i a b t (d := (1, 1, 0)) (by rw [delayRows_eq]; simp) h).1
  · by_cases hl : longWrite i .st0
    · exact intAccepted_of_delay01 (afterInstr_row i a b t (d := (1, 1, 0)) (by rw [delayRows_eq]; simp) hl).1
    · have hs : shortWrite i .st0 := ⟨h, fun v hv => hl ⟨v, hv⟩⟩
      have h2 := (afterInstr_row i a b t (d := (2, 2, 0)) (by rw [delayRows_eq]; simp) hs).1
      exact intAccepted_of_delay01 (Nat.le_of_succ_le h2)

end

end Sys2Proof.Machine
end

section
/-! What the sequencing after an instruction breaks on and what it records: no part of it clears a cause or the BI
request. -/

namespace Sys2Proof.Machine

/-! ## Causes stay -/

/-- From `s` to `t` no cause and no BI request is cleared, and MODE0 is kept. -/
structure Rises (s t : State) : Prop where
  biReq : s.ocem.biReq = true → t.ocem.biReq = true
  cause : ∀ k, s.ocem.status0.getLsbD k = true → t.ocem.status0.getLsbD k = true
  mode0 : t.ocem.mode0 = s.ocem.mode0

/-- BI is requested with cause bit `k`. -/
def Broken (k : Nat) (s : State) : Prop := s.ocem.biReq = true ∧ s.ocem.status0.getLsbD k = true

theorem rises_of_ocem {s t : State} (h : t.ocem = s.ocem) : Rises s t :=
  ⟨by rw [h]; exact id, by rw [h]; exact fun _ => id, by rw [h]⟩

theorem rises_refl (s : State) : Rises s s := rises_of_ocem rfl

theorem rises_trans {s t u : State} (h : Rises s t) (g : Rises t u) : Rises s u :=
  ⟨g.biReq ∘ h.biReq, fun k => g.cause k ∘ h.cause k, g.mode0.trans h.mode0⟩

theorem broken_of_rises {k : Nat} {s t : State} (h : Broken k s) (g : Rises s t) : Broken k t :=
  ⟨g.biReq h.1, g.cause k h.2⟩

theorem broken_ocemBreak {k : Nat} (hk : k < 16) (s : State) : Broken k (ocemBreak k s) :=
  ⟨rfl, (getLsbD_ocemCause hk k s.ocem).trans (by simp)⟩

theorem rises_ocemBreak {k : Nat} (hk : k < 16) (s : State) : Rises s (ocemBreak k s) :=
  ⟨fun _ => rfl, fun j hj => (getLsbD_ocemCause hk j s.ocem).trans (by rw [hj, Bool.true_or]), rfl⟩

theorem rises_ocemBreakIf (c : Bool) {k : Nat} (hk : k < 16) (s : State) : Rises s (if c then ocemBreak k s else s) := by
  cases c
  · exact rises_refl s
  · exact rises_ocemBreak hk s

theorem rises_tracePush (e : TraceEntry) (s : State) : Rises s (tracePush e s) := by
  unfold tracePush
  dsimp only
  refine rises_trans (t := { s with ocem := { s.ocem with trace := (traceSettle s.ocem.trace).tail ++ [e] } }) ?_
    (rises_ocemBreakIf _ (by decide) _)
  exact ⟨id, fun _ => id, rfl⟩

theorem rises_traceTwo (src dst : Word) (s : State) : Rises s (traceTwo src dst s) :=
  rises_trans (rises_tracePush _ s) (rises_tracePush _ _)

/-- The record of a jump (R514). -/
def jumpTraced (f : InstrInfo) (a : Word) (s : State) : State :=
  if [Kind.br, .brr, .call, .callr].contains f.kind then traceOne a s else traceTwo a s.pc s

theorem rises_jumpTraced (f : InstrInfo) (a : Word) (s : State) : Rises s (jumpTraced f a s) := by
  unfold jumpTraced
  split
  · exact rises_tracePush _ s
  · exact rises_traceTwo _ _ s

theorem ocemJump_eq (f : InstrInfo) (a : Word) (b s : State) : ocemJump f a b s =
    if !b.ctl.inTrap && (isTaken f b || f.dst == some .pc) then
      if (jumpTraced f a s).ocem.mode0.getLsbD 10 then ocemBreak 11 (jumpTraced f a s) else jumpTraced f a s
    else s := rfl

theorem rises_ocemJump (f : InstrInfo) (a : Word) (b s : State) : Rises s (ocemJump f a b s) := by
  rw [ocemJump_eq]
  split
  · exact rises_trans (rises_jumpTraced f a s) (rises_ocemBreakIf _ (by decide) _)
  · exact rises_refl s

/-- BRE breaks on a jump outside the TRAP/BI routine (R513). -/
theorem ocemJump_breaks {i : Instr} (a : Word) {b s : State} (hout : b.ctl.inTrap = false)
    (hjump : transfers i b ∨ writesReg i .pc) (hbre : s.ocem.mode0.getLsbD 10 = true) :
    Broken 11 (ocemJump (instrInfo i) a b s) := by
  rw [← isTaken_iff, ← dst_pc_iff] at hjump
  rw [ocemJump_eq, if_pos (by simpa [hout] using hjump), (rises_jumpTraced (instrInfo i) a s).mode0, if_pos hbre]
  exact broken_ocemBreak (by decide) _

/-! ## The repeats -/

/-- The sequencing of both kinds of repeat after the instruction `i` at `a` (R400 a and b). -/
def afterLoops (i : Instr) (a : Word) (b s : State) : State :=
  let r := afterRepeat a b s
  if r.2 then r.1 else afterBlock (a + BitVec.ofNat 16 (instrInfo i).words) r.1

theorem applyLpClear_ocem (n : BitVec 3) (s : State) : (applyLpClear n s).ocem = s.ocem := by rw [applyLpClear_frame]

theorem afterRepeat_ocem (a : Word) (b s : State) : (afterRepeat a b s).1.ocem = s.ocem := by
  unfold afterRepeat
  split_ifs <;> rfl

theorem rises_afterBlock (next : Word) (s : State) : Rises s (afterBlock next s) := by
  unfold afterBlock
  split
  · split
    · exact rises_of_ocem (by rw [endBlock_frame])
    · dsimp only
      refine rises_trans (t := { s with regs := { s.regs with lc := s.regs.lc - 1 }, pc := s.ctl.bkStart })
        (rises_of_ocem rfl) (rises_trans (rises_ocemBreakIf _ (by decide) _) (rises_of_ocem (applyLpClear_ocem ..)))
  · exact rises_refl s

theorem rises_afterLoops (i : Instr) (a : Word) (b s : State) : Rises s (afterLoops i a b s) := by
  have h := rises_of_ocem (afterRepeat_ocem a b s)
  unfold afterLoops
  dsimp only
  split
  · exact h
  · exact rises_trans h (rises_afterBlock _ _)

/-- MODE0 bit 13 breaks on the return to the start of a block (R513). -/
theorem afterBlock_breaks {next : Word} {s : State} (hlp : s.ctl.lp = true) (hend : s.ctl.bkEnd = next - 1)
    (hpc : s.pc = next) (hlc : s.regs.lc ≠ 0) (hout : s.ctl.inTrap = false) (hbk : s.ocem.mode0.getLsbD 13 = true) :
    Broken 11 (afterBlock next s) := by
  rw [afterBlock, if_pos (by simp [hlp, hend, hpc]), if_neg (by simpa using hlc)]
  dsimp only
  rw [if_pos (by simp [ocemArmed, hout, hbk, -BitVec.getLsbD_eq_getElem])]
  exact broken_of_rises (broken_ocemBreak (by decide) _) (rises_of_ocem (applyLpClear_ocem ..))

/-- Neither repeat touches the pending return or the trace buffer. -/
theorem afterLoops_unrecorded (i : Instr) (a : Word) (b s : State) :
    Unrecorded s (afterLoops i a b s) ∧ SameReturn s (afterLoops i a b s) := by
  obtain ⟨h, hr⟩ := afterRepeat_unrecorded a b s
  unfold afterLoops
  dsimp only
  split
  · exact ⟨h, hr⟩
  · obtain ⟨g, gr⟩ := afterBlock_unrecorded (a + BitVec.ofNat 16 (instrInfo i).words) (afterRepeat a b s).1
    exact ⟨unrecorded_trans h g, gr.1.trans hr.1, gr.2.trans hr.2⟩

/-! ## The delayed return, the latency of a data breakpoint, the single step -/

theorem rises_afterDelay (n : Nat) (b s : State) : Rises s (afterDelay n b s) := by
  unfold afterDelay
  split
  · exact rises_refl s
  · split
    · exact rises_of_ocem rfl
    · dsimp only
      generalize hr : returnTo s.ctl.delayTarget _ = w
      have hw : Rises s w := rises_of_ocem (by rw [← hr, returnTo_ocem])
      split
      · exact hw
      · exact rises_trans hw (rises_trans (rises_traceTwo _ _ w) (rises_ocemBreakIf _ (by decide) _))

/-- BRE breaks at the end of a delayed return that began outside the TRAP/BI routine (R513). -/
theorem afterDelay_breaks {n : Nat} {b s : State} (h0 : b.ctl.delayCount ≠ 0) (h : b.ctl.delayCount ≤ n)
    (hfrom : s.ctl.delayFrom ≠ none) (hbre : s.ocem.mode0.getLsbD 10 = true) : Broken 11 (afterDelay n b s) := by
  obtain ⟨src, hsrc⟩ := Option.ne_none_iff_exists'.1 hfrom
  rw [afterDelay, if_neg h0, if_neg (Nat.not_lt.2 h)]
  dsimp only
  rw [hsrc]
  dsimp only
  rw [traceTwo_mode0, returnTo_ocem, if_pos hbre]
  exact broken_ocemBreak (by decide) _

theorem rises_afterData (b s : State) : Rises s (afterData b s) := by
  unfold afterData
  split
  · exact rises_refl s
  · exact ⟨fun _ => rfl, fun _ => id, rfl⟩
  · exact ⟨id, fun _ => id, rfl⟩

theorem rises_afterTrapRet (b s : State) : Rises s (afterTrapRet b s) := by
  unfold afterTrapRet
  split
  · exact ⟨fun h => by simp [h], fun _ => id, rfl⟩
  · exact rises_refl s

theorem afterTrapRet_biData (b s : State) : (afterTrapRet b s).ocem.biData = s.ocem.biData := by
  unfold afterTrapRet
  split <;> rfl

/-! ## After an instruction -/

section
variable (i : Instr) (a : Word) (b t : State)

/-- The parts of the sequencing in their order. -/
theorem afterInstr_ocem : (afterInstr i a b t).ocem =
    (afterTrapRet b (afterData b (afterDelay (cyclesOf (instrInfo i) b) b
      (afterLoops i a b (ocemJump (instrInfo i) a b t))))).ocem := rfl

/-- What the last two parts find stays. -/
theorem rises_afterInstr_of_delay :
    Rises (afterDelay (cyclesOf (instrInfo i) b) b (afterLoops i a b (ocemJump (instrInfo i) a b t)))
      (afterInstr i a b t) :=
  rises_trans (rises_afterData b _) (rises_trans (rises_afterTrapRet b _) (rises_of_ocem (afterInstr_ocem i a b t)))

theorem rises_afterInstr_of_loops :
    Rises (afterLoops i a b (ocemJump (instrInfo i) a b t)) (afterInstr i a b t) :=
  rises_trans (rises_afterDelay ..) (rises_afterInstr_of_delay i a b t)

theorem rises_afterInstr_of_jump : Rises (ocemJump (instrInfo i) a b t) (afterInstr i a b t) :=
  rises_trans (rises_afterLoops ..) (rises_afterInstr_of_loops i a b t)

/-- The latency of a data breakpoint runs down (R511). -/
theorem afterInstr_biData : (b.ocem.biData = 1 → (afterInstr i a b t).ocem.biReq = true) ∧
    (b.ocem.biData = 2 → (afterInstr i a b t).ocem.biData = 1) := by
  rw [afterInstr_ocem]
  generalize afterDelay _ b _ = u
  refine ⟨fun h => (rises_afterTrapRet b _).biReq ?_, fun h => (afterTrapRet_biData b _).trans ?_⟩ <;>
    rw [afterData, h]

/-- The single step breaks after the first instruction behind a TRAP/BI return (R512). -/
theorem afterInstr_singleStep (hret : b.ctl.trapRet = true) (hstep : b.ctl.stepArmed = true) :
    (afterInstr i a b t).ocem.biReq = true := by
  rw [afterInstr_ocem, afterTrapRet, if_pos hret, hstep]
  exact Bool.or_true _

theorem afterInstr_jump_breaks (hout : b.ctl.inTrap = false) (hjump : transfers i b ∨ writesReg i .pc)
    (hbre : t.ocem.mode0.getLsbD 10 = true) : Broken 11 (afterInstr i a b t) :=
  broken_of_rises (ocemJump_breaks a hout hjump hbre) (rises_afterInstr_of_jump i a b t)

/-- What the delayed return finds: the breakpoints enabled as after the meaning, and its start as noted there. -/
theorem afterLoops_jump_return :
    let u := afterLoops i a b (ocemJump (instrInfo i) a b t)
    u.ocem.mode0 = t.ocem.mode0 ∧ u.ctl.delayFrom = t.ctl.delayFrom ∧ u.ctl.delayTarget = t.ctl.delayTarget := by
  obtain ⟨-, hfrom, htarget⟩ := afterLoops_unrecorded i a b (ocemJump (instrInfo i) a b t)
  rw [ocemJump_ctl] at hfrom htarget
  exact ⟨(rises_trans (rises_ocemJump (instrInfo i) a b t) (rises_afterLoops i a b _)).mode0, hfrom, htarget⟩

theorem afterInstr_return_breaks (h0 : b.ctl.delayCount ≠ 0) (h : b.ctl.delayCount ≤ cyclesOf (instrInfo i) b)
    (hfrom : t.ctl.delayFrom ≠ none) (hbre : t.ocem.mode0.getLsbD 10 = true) : Broken 11 (afterInstr i a b t) := by
  obtain ⟨hm, hf, -⟩ := afterLoops_jump_return i a b t
  rw [← hf] at hfrom
  rw [← hm] at hbre
  exact broken_of_rises (afterDelay_breaks h0 h hfrom hbre) (rises_afterInstr_of_delay i a b t)

theorem afterInstr_block_breaks (hout : t.ctl.inTrap = false) (hbk : t.ocem.mode0.getLsbD 13 = true)
    (hrep : b.ctl.repActive = false) (hlp : t.ctl.lp = true) (hlc : t.regs.lc ≠ 0)
    (hpc : t.pc = a + BitVec.ofNat 16 (instrInfo i).words) (hend : t.ctl.bkEnd = t.pc - 1) :
    Broken 11 (afterInstr i a b t) := by
  have hloops : afterLoops i a b (ocemJump (instrInfo i) a b t) =
      afterBlock (a + BitVec.ofNat 16 (instrInfo i).words) (ocemJump (instrInfo i) a b t) := by
    unfold afterLoops
    rw [afterRepeat_off hrep]
    rfl
  have hmode := (rises_ocemJump (instrInfo i) a b t).mode0
  refine broken_of_rises ?_ (rises_afterInstr_of_loops i a b t)
  rw [hloops]
  rw [hpc] at hend
  rw [← hmode] at hbk
  rw [ocemJump_frame] at hbk ⊢
  exact afterBlock_breaks hlp hend hpc hlc hout hbk

/-! ## The records of an instruction -/

/-- The delayed return of the instruction ends, and its start was noted (R514). -/
def ReturnsNow : Prop :=
  b.ctl.delayCount ≠ 0 ∧ b.ctl.delayCount ≤ cyclesOf (instrInfo i) b ∧ t.ctl.delayFrom ≠ none

/-- The instruction jumps outside the TRAP/BI routine (R514). -/
def JumpsNow : Prop := b.ctl.inTrap = false ∧ (transfers i b ∨ writesReg i .pc)

theorem unrecorded_end (s : State) : Unrecorded (afterDelay (cyclesOf (instrInfo i) b) b s)
    (afterTrapRet b (afterData b (afterDelay (cyclesOf (instrInfo i) b) b s))) :=
  unrecorded_trans (afterData_unrecorded b _) (afterTrapRet_unrecorded b _)

theorem unrecorded_afterInstr (hlen : (ocemJump (instrInfo i) a b t).ocem.trace.length = 16) (h : ¬ReturnsNow i b t) :
    Unrecorded (ocemJump (instrInfo i) a b t) (afterInstr i a b t) := by
  obtain ⟨hkept, -⟩ := afterLoops_unrecorded i a b (ocemJump (instrInfo i) a b t)
  obtain ⟨-, hfrom, -⟩ := afterLoops_jump_return i a b t
  have hdelay := (afterDelay_trace (cyclesOf (instrInfo i) b) b (afterLoops i a b (ocemJump (instrInfo i) a b t))
    (by rw [hkept.kept.1]; exact hlen)).1 (by rw [hfrom]; unfold ReturnsNow at h; rw [← Nat.not_le]; tauto)
  exact unrecorded_trans hkept (unrecorded_trans hdelay (unrecorded_trans (unrecorded_end i b _) (unrecorded_of_ocem rfl)))

variable {t}

theorem afterInstr_trace_kept (hlen : t.ocem.trace.length = 16) (hj : ¬JumpsNow i b) (hr : ¬ReturnsNow i b t) :
    TraceKept t (afterInstr i a b t) := by
  have hno := (ocemJump_trace i a b t hlen).1 hj
  have hrest := unrecorded_afterInstr i a b t (by rw [hno]; exact hlen) hr
  rw [hno] at hrest
  exact hrest.kept

theorem afterInstr_trace_jump (hlen : t.ocem.trace.length = 16) (hj : JumpsNow i b) (hr : ¬ReturnsNow i b t) :
    TraceTakes (jumpRecord i a t.pc) t (afterInstr i a b t) := by
  have htakes := (ocemJump_trace i a b t hlen).2 hj
  exact traceTakes_then htakes
    (unrecorded_afterInstr i a b t (by rw [htakes.1, traceAfter_length]) hr)

theorem afterInstr_trace_return (hlen : t.ocem.trace.length = 16) {src : Word} (hsrc : t.ctl.delayFrom = some src)
    (hj : ¬JumpsNow i b) (hr : ReturnsNow i b t) :
    TraceTakes [⟨false, src⟩, ⟨false, t.ctl.delayTarget⟩] t (afterInstr i a b t) := by
  obtain ⟨h0, hn, -⟩ := hr
  have hno := (ocemJump_trace i a b t hlen).1 hj
  obtain ⟨hkept, -⟩ := afterLoops_unrecorded i a b (ocemJump (instrInfo i) a b t)
  obtain ⟨-, hfrom, htarget⟩ := afterLoops_jump_return i a b t
  have hend := unrecorded_end i b (afterLoops i a b (ocemJump (instrInfo i) a b t))
  have hocem := afterInstr_ocem i a b t
  rw [hno] at hkept hfrom htarget hend hocem
  have htakes := (afterDelay_trace (cyclesOf (instrInfo i) b) b (afterLoops i a b t) (by rw [hkept.kept.1]; exact hlen)).2
    src h0 hn (hfrom.trans hsrc)
  rw [htarget] at htakes
  exact then_traceTakes hkept (traceTakes_then htakes (unrecorded_trans hend (unrecorded_of_ocem hocem)))

end

/-- The entry of a maskable interrupt records the last address and the vector (R514). -/
theorem takeInterrupt_trace {e : Event} {s t : State} (h : takeException e s = .next t)
    (hlen : t.ocem.trace.length = 16) :
    Gives (takeInterrupt e s) (TraceTakes [⟨false, s.tm.lastAddr⟩, ⟨false, vectorOf e⟩] t) := by
  refine ⟨_, takeInterrupt_of_next h, ?_⟩
  have htakes := traceTwo_takes s.tm.lastAddr (vectorOf e) { t with tm := { t.tm with icPrev := icBits t } } hlen
  split
  · exact traceTakes_then htakes (unrecorded_break 12 (.inr rfl) _)
  · exact htakes

end Sys2Proof.Machine
end

section
/-! What requests BI: the program breakpoints on the fetch, the data breakpoints, the illegal accesses and the ports. -/

namespace Sys2Proof.Machine

/-! ## Program breakpoints -/

/-- One program breakpoint: on a hit the guarded decrement, and a break from a count of 1 or 0 (R508). -/
theorem pabHit_effect (on : Bool) (a p : Word) (c : BitVec 6) :
    (on = true ∧ a = p → (pabHit on a p c).1.toNat = c.toNat - 1) ∧
      (¬(on = true ∧ a = p) → (pabHit on a p c).1 = c) ∧
      ((pabHit on a p c).2 = true ↔ (on = true ∧ a = p) ∧ c.toNat ≤ 1) := by
  have hguard : on = true ∧ a = p ↔ (on && a == p) = true := by simp
  rw [hguard, pabHit]
  split
  next h =>
    by_cases hc : c = 0
    · subst hc
      simp [h]
    · have hpos : 1 ≤ c.toNat := Nat.one_le_iff_ne_zero.2 fun h0 => hc (BitVec.eq_of_toNat_eq h0)
      have hdec : (c - 1).toNat = c.toNat - 1 := BitVec.toNat_sub_of_le hpos
      have hzero : c - 1 = 0 ↔ c.toNat ≤ 1 := by
        rw [← BitVec.toNat_inj, hdec]
        show c.toNat - 1 = 0 ↔ _
        omega
      have hne : (if c == 0 then 0 else c - 1) = c - 1 := if_neg (by simpa using hc)
      dsimp only
      rw [hne, h]
      exact ⟨fun _ => hdec, fun hno => absurd rfl hno, by simp only [beq_iff_eq, hzero, true_and]⟩
  next h => simp [h]

/-- A breakpoint that may be taken: its cause bit and the request. -/
theorem ocemBreakIf_effect (c : Bool) {k : Nat} (hk : k < 16) (s : State) :
    (∀ j, (if c then ocemBreak k s else s).ocem.status0.getLsbD j =
      (s.ocem.status0.getLsbD j || (c && decide (j = k)))) ∧
      (if c then ocemBreak k s else s).ocem.biReq = (s.ocem.biReq || c) := by
  cases c
  · simp
  · exact ⟨fun j => getLsbD_ocemCause hk j s.ocem, (Bool.or_true _).symm⟩

/-- The three program breakpoints on a fetch (R508). -/
theorem ocemFetch_effect (a : Word) (s : State) :
    let h1 := pabHit (ocemArmed 7 s) a s.ocem.pabp1 s.ocem.pabc1
    let h2 := pabHit (ocemArmed 8 s) a s.ocem.pabp2 s.ocem.pabc2
    let h3 := pabHit (ocemArmed 9 s) a s.ocem.pabp3 s.ocem.pabc3
    let t := ocemFetch a s
    t = { s with ocem := { s.ocem with
      status0 := t.ocem.status0, biReq := t.ocem.biReq,
      pabc1 := t.ocem.pabc1, pabc2 := t.ocem.pabc2, pabc3 := t.ocem.pabc3 } } ∧
      t.ocem.pabc1 = h1.1 ∧ t.ocem.pabc2 = h2.1 ∧ t.ocem.pabc3 = h3.1 ∧
      (∀ j, t.ocem.status0.getLsbD j = (s.ocem.status0.getLsbD j || (h1.2 && decide (j = 5)) || (h2.2 && decide (j = 6)) ||
        (h3.2 && decide (j = 7)))) ∧
      t.ocem.biReq = (s.ocem.biReq || h1.2 || h2.2 || h3.2) := by
  dsimp only
  unfold ocemFetch
  dsimp only
  generalize pabHit (ocemArmed 7 s) a s.ocem.pabp1 s.ocem.pabc1 = h1
  generalize pabHit (ocemArmed 8 s) a s.ocem.pabp2 s.ocem.pabc2 = h2
  generalize pabHit (ocemArmed 9 s) a s.ocem.pabp3 s.ocem.pabc3 = h3
  obtain ⟨c1, hit1⟩ := h1
  obtain ⟨c2, hit2⟩ := h2
  obtain ⟨c3, hit3⟩ := h3
  dsimp only
  generalize hu : ({ s with ocem := { s.ocem with pabc1 := c1, pabc2 := c2, pabc3 := c3 } } : State) = u
  obtain ⟨f1, g1⟩ := ocemBreakIf_effect hit1 (k := 5) (by decide) u
  generalize hv : (if hit1 then ocemBreak 5 u else u) = v at f1 g1 ⊢
  obtain ⟨f2, g2⟩ := ocemBreakIf_effect hit2 (k := 6) (by decide) v
  generalize hw : (if hit2 then ocemBreak 6 v else v) = w at f2 g2 ⊢
  obtain ⟨f3, g3⟩ := ocemBreakIf_effect hit3 (k := 7) (by decide) w
  refine ⟨?_, ?_, ?_, ?_, fun j => ?_, ?_⟩
  · subst hw hv hu
    cases hit1 <;> cases hit2 <;> cases hit3 <;> rfl
  · subst hw hv hu
    cases hit1 <;> cases hit2 <;> cases hit3 <;> rfl
  · subst hw hv hu
    cases hit1 <;> cases hit2 <;> cases hit3 <;> rfl
  · subst hw hv hu
    cases hit1 <;> cases hit2 <;> cases hit3 <;> rfl
  · rw [f3, f2, f1, ← hu]
  · rw [g3, g2, g1, ← hu]

/-- The enabled program breakpoint `k` sees a fetch at its address `p`, outside the TRAP/BI routine (R508). -/
def ProgramHit (s : State) (a : Word) (k : Nat) (p : Word) : Prop :=
  s.ocem.mode0.getLsbD k = true ∧ s.ctl.inTrap = false ∧ a = p

section
variable (s : State) (a : Word)

theorem programHit_iff (k : Nat) (p : Word) : ocemArmed k s = true ∧ a = p ↔ ProgramHit s a k p := by
  simp [ocemArmed, ProgramHit, and_assoc, -BitVec.getLsbD_eq_getElem]

/-- `pabHit_effect` for the breakpoint `k`. -/
theorem pabHit_armed (k : Nat) (p : Word) (c : BitVec 6) :
    (ProgramHit s a k p → (pabHit (ocemArmed k s) a p c).1.toNat = c.toNat - 1) ∧
      (¬ProgramHit s a k p → (pabHit (ocemArmed k s) a p c).1 = c) ∧
      ((pabHit (ocemArmed k s) a p c).2 = true ↔ ProgramHit s a k p ∧ c.toNat ≤ 1) := by
  rw [← programHit_iff]
  exact pabHit_effect (ocemArmed k s) a p c

/-- The program breakpoints on a fetch (R508). -/
theorem ocemFetch_breaks :
    let t := ocemFetch a s
    let o := s.ocem
    (∀ r ∈ [(7, 5, o.pabp1, o.pabc1, t.ocem.pabc1), (8, 6, o.pabp2, o.pabc2, t.ocem.pabc2),
        (9, 7, o.pabp3, o.pabc3, t.ocem.pabc3)],
      (ProgramHit s a r.1 r.2.2.1 → r.2.2.2.2.toNat = r.2.2.2.1.toNat - 1) ∧
        (¬ProgramHit s a r.1 r.2.2.1 → r.2.2.2.2 = r.2.2.2.1) ∧
        (t.ocem.status0.getLsbD r.2.1 = true ↔ o.status0.getLsbD r.2.1 = true ∨
          ProgramHit s a r.1 r.2.2.1 ∧ r.2.2.2.1.toNat ≤ 1)) ∧
      (t.ocem.biReq = true ↔ o.biReq = true ∨ (ProgramHit s a 7 o.pabp1 ∧ o.pabc1.toNat ≤ 1) ∨
        (ProgramHit s a 8 o.pabp2 ∧ o.pabc2.toNat ≤ 1) ∨ (ProgramHit s a 9 o.pabp3 ∧ o.pabc3.toNat ≤ 1)) := by
  obtain ⟨-, hc1, hc2, hc3, hst, hreq⟩ := ocemFetch_effect a s
  obtain ⟨dec1, keep1, hit1⟩ := pabHit_armed s a 7 s.ocem.pabp1 s.ocem.pabc1
  obtain ⟨dec2, keep2, hit2⟩ := pabHit_armed s a 8 s.ocem.pabp2 s.ocem.pabc2
  obtain ⟨dec3, keep3, hit3⟩ := pabHit_armed s a 9 s.ocem.pabp3 s.ocem.pabc3
  refine ⟨fun r hr => ?_, ?_⟩
  · simp only [List.mem_cons, List.not_mem_nil, or_false] at hr
    rcases hr with rfl | rfl | rfl
    · refine ⟨hc1 ▸ dec1, hc1 ▸ keep1, ?_⟩
      rw [← hit1, hst]
      simp [-BitVec.getLsbD_eq_getElem]
    · refine ⟨hc2 ▸ dec2, hc2 ▸ keep2, ?_⟩
      rw [← hit2, hst]
      simp [-BitVec.getLsbD_eq_getElem]
    · refine ⟨hc3 ▸ dec3, hc3 ▸ keep3, ?_⟩
      rw [← hit3, hst]
      simp [-BitVec.getLsbD_eq_getElem]
  · rw [← hit1, ← hit2, ← hit3, hreq]
    simp only [Bool.or_eq_true, or_assoc]

end

/-! ## Data breakpoints -/

/-- RAM is not illegal (R506). -/
theorem ocemIllegalAddr_ram {a : Word} (h : dataRegion a = .ram) : ocemIllegalAddr a = false := by
  have hn := (dataRegion_ram_iff a).1 h
  rw [← Bool.not_eq_true, ocemIllegalAddr]
  simp only [Bool.or_eq_true, Bool.and_eq_true, decide_eq_true_eq]
  omega

/-- The mailbox with its semaphores and the emulation registers are (R506). -/
theorem ocemIllegalAddr_devices {a : Word} (h : dataRegion a = .mailbox ∨ dataRegion a = .semaphore ∨ dataRegion a = .ocem) :
    ocemIllegalAddr a = true := by
  rw [dataRegion_mailbox_iff, dataRegion_semaphore_iff, dataRegion_ocem_iff] at h
  simp only [ocemIllegalAddr, Bool.or_eq_true, Bool.and_eq_true, decide_eq_true_eq]
  omega

section
variable (s : State)

/-- The enabled address match, with the default sense of DAM (R509, D27). -/
def AddressHit (ka : Nat) (a : Word) : Prop :=
  s.ocem.mode0.getLsbD ka = true ∧ (a ^^^ s.ocem.dabp) &&& ~~~s.ocem.dam = 0

/-- The enabled value match (R510). -/
def ValueHit (kv : Nat) (v : Word) : Prop := s.ocem.mode0.getLsbD kv = true ∧ v = s.regs.dvm

/-- The matches together that start the latency (R510). -/
def WatchHit (ka kv : Nat) (a v : Word) : Prop :=
  if s.ocem.mode0.getLsbD 4 then AddressHit s ka a ∧ ValueHit s kv v else AddressHit s ka a ∨ ValueHit s kv v

/-- What the data breakpoints leave in `u` after an access in `s` (R510, R511). -/
def Watched (a : Word) (ka kv : Nat) (v : Word) (u : State) : Prop :=
  (∀ k, u.ocem.status0.getLsbD k = true ↔ s.ocem.status0.getLsbD k = true ∨
      (k = 2 ∧ s.ocem.mode0.getLsbD 4 = true ∧ AddressHit s ka a ∧ ValueHit s kv v) ∨
      (k = 1 ∧ ¬s.ocem.mode0.getLsbD 4 = true ∧ AddressHit s ka a) ∨
      (k = 0 ∧ ¬s.ocem.mode0.getLsbD 4 = true ∧ ValueHit s kv v)) ∧
    (WatchHit s ka kv a v → s.ocem.biData = 0 → u.ocem.biData = 2) ∧
    (¬WatchHit s ka kv a v ∨ s.ocem.biData ≠ 0 → u.ocem.biData = s.ocem.biData) ∧ u.ocem.biReq = s.ocem.biReq

variable {s}

theorem dataMatch_iff {ka : Nat} {a : Word} : dataMatch s ka a = true ↔ AddressHit s ka a := by
  simp [dataMatch, AddressHit, ocemMatchAddr, Config.damOneMasks, -BitVec.getLsbD_eq_getElem]

theorem valueMatch_iff {kv : Nat} {v : Word} : valueMatch s kv (some v) = true ↔ ValueHit s kv v := by
  simp [valueMatch, ValueHit, -BitVec.getLsbD_eq_getElem]

theorem dataHit_iff {ka kv : Nat} {a v : Word} : dataHit s ka kv a (some v) = true ↔ WatchHit s ka kv a v := by
  unfold dataHit WatchHit
  split
  · rw [Bool.and_eq_true, dataMatch_iff, valueMatch_iff]
  · rw [Bool.or_eq_true, dataMatch_iff, valueMatch_iff]

/-- The data breakpoints on an access whose state `t` after it has the emulation module as it was. -/
theorem watched_ocemDataWatch {t : State} (ht : t.ocem = s.ocem) (a : Word) (ka kv : Nat) (v : Word) :
    Watched s a ka kv v (ocemDataWatch s ka kv a (some v) t) := by
  obtain ⟨hst, hdata, hreq⟩ := ocemDataWatch_effect s t ka kv a (some v)
  rw [ht] at hst hdata hreq
  refine ⟨fun k => ?_, fun hhit h0 => ?_, fun h => ?_, hreq⟩
  · rw [hst, ← dataMatch_iff, ← valueMatch_iff]
    simp only [Bool.or_eq_true, Bool.and_eq_true, decide_eq_true_eq, Bool.not_eq_true', Bool.not_eq_true, or_assoc,
      and_assoc]
  · rw [hdata, dataHit_iff.2 hhit, h0]
    rfl
  · rw [hdata]
    refine if_neg fun hyes => ?_
    rw [Bool.and_eq_true, dataHit_iff, beq_iff_eq] at hyes
    exact h.elim (· hyes.1) (· hyes.2)

/-- Outside the TRAP/BI routine a legal access meets the data breakpoints only. -/
theorem ocemWatch_legal (hout : s.ctl.inTrap = false) {a : Word} (ha : ocemIllegalAddr a = false) (r : Bool) (v : Option Word)
    (t : State) : ocemWatch r a v s t = ocemDataWatch s (if r then 3 else 2) (if r then 1 else 0) a v t := by
  rw [ocemWatch_of_not_inTrap t a v hout, ha, Bool.and_false]
  rfl

variable {a : Word}

theorem dataRead_ram_watched (hout : s.ctl.inTrap = false) (h : dataRegion a = .ram) :
    Gives (dataRead a s) fun q => Watched s a 3 1 q.1 q.2 := by
  have hraw : dataReadRaw a s = .next (memWord s.data a, s) := by rw [dataReadRaw, h]
  refine ⟨(memWord s.data a, ocemWatch true a (some (memWord s.data a)) s s), by rw [dataRead, hraw, andThen_next], ?_⟩
  dsimp only
  rw [ocemWatch_legal hout (ocemIllegalAddr_ram h)]
  exact watched_ocemDataWatch rfl a 3 1 _

theorem dataWrite_ram_watched (hout : s.ctl.inTrap = false) (h : dataRegion a = .ram) (v : Word) :
    Gives (dataWrite a v s) (Watched s a 2 0 v) := by
  refine ⟨ocemWatch false a (some v) s { s with data := memSetWord s.data a v },
    by rw [dataWrite, dataWriteRaw_ram h, andThen_next], ?_⟩
  have hocem : ({ s with data := memSetWord s.data a v } : State).ocem = s.ocem := rfl
  rw [ocemWatch_legal hout (ocemIllegalAddr_ram h)]
  exact watched_ocemDataWatch hocem a 2 0 v

/-! ## Illegal accesses and the ports -/

/-- ILLE breaks on an illegal access (R506). -/
theorem ocemWatch_illegal (hout : s.ctl.inTrap = false) (hille : s.ocem.mode0.getLsbD 14 = true)
    (ha : ocemIllegalAddr a = true) (r : Bool) (v : Option Word) (t : State) : Broken 14 (ocemWatch r a v s t) := by
  rw [ocemWatch_of_not_inTrap t a v hout, hille, ha, Bool.and_true, if_pos rfl]
  obtain ⟨hst, -, hreq⟩ := ocemDataWatch_effect s (ocemBreak 14 t) (if r then 3 else 2) (if r then 1 else 0) a v
  obtain ⟨hset, hbit⟩ := broken_ocemBreak (k := 14) (by decide) t
  exact ⟨hreq.trans hset, by rw [hst, hbit, Bool.true_or, Bool.true_or, Bool.true_or]⟩

theorem mapped_of_devices (h : dataRegion a = .mailbox ∨ dataRegion a = .semaphore ∨ dataRegion a = .ocem) :
    dataRegion a ≠ .unmapped := by
  rcases h with h | h | h <;> simp [h]

theorem dataRead_illegal (hout : s.ctl.inTrap = false) (hille : s.ocem.mode0.getLsbD 14 = true)
    (h : dataRegion a = .mailbox ∨ dataRegion a = .semaphore ∨ dataRegion a = .ocem) :
    Gives (dataRead a s) fun q => Broken 14 q.2 := by
  obtain ⟨w, t, hread⟩ := dataRead_mapped a s (mapped_of_devices h)
  refine ⟨(w, t), hread, ?_⟩
  rw [dataRead, andThen_eq_next] at hread
  obtain ⟨q, -, hq⟩ := hread
  rw [← Host.Outcome.next.inj hq]
  exact ocemWatch_illegal hout hille (ocemIllegalAddr_devices h) true _ _

theorem dataWrite_illegal (hout : s.ctl.inTrap = false) (hille : s.ocem.mode0.getLsbD 14 = true)
    (h : dataRegion a = .mailbox ∨ dataRegion a = .semaphore ∨ dataRegion a = .ocem) (v : Word) :
    Gives (dataWrite a v s) (Broken 14) := by
  obtain ⟨t, hwrite⟩ := dataWrite_mapped a v s (mapped_of_devices h)
  refine ⟨t, hwrite, ?_⟩
  rw [dataWrite, andThen_eq_next] at hwrite
  obtain ⟨u, -, hu⟩ := hwrite
  exact Host.Outcome.next.inj hu ▸ ocemWatch_illegal hout hille (ocemIllegalAddr_devices h) false (some v) u

/-- The enabled break on an access to a port (R507). -/
theorem ocemExtWatch_breaks {k : Nat} (hout : s.ctl.inTrap = false) (h : s.ocem.mode0.getLsbD k = true) :
    Broken 3 (ocemExtWatch k s) := by
  rw [ocemExtWatch, if_pos (by rw [ocemArmed, h, hout]; rfl)]
  exact broken_ocemBreak (by decide) s

theorem readReg_port {r : Reg} {k : BitVec 2} (h : extOfReg r = some k) (s : State) : readReg r s = extRead k s := by
  rw [readReg, h]

theorem writeReg_port {r : Reg} {k : BitVec 2} (h : extOfReg r = some k) (v : Word) (s : State) :
    writeReg r v s = extWrite k v s := by
  cases r with
  | ext0 | ext1 | ext2 | ext3 => rw [← Option.some.inj h]; rfl
  | _ => exact absurd h nofun

end

/-! ## The obligation -/

/-- Settles O58: acceptance from its conditions, the delays from the rows of Table 14, the breaks and the records part by
part of the sequencing. -/
theorem interruptAcceptance : Obligations.InterruptAcceptance := by
  unfold Obligations.InterruptAcceptance
  refine ⟨fun s => ?_, fun i a b t => ?_, fun i a b t hlen => ?_, fun s t p hp h hlen => ?_, fun a s => ?_,
    fun a v s hout => ?_⟩
  · have hclosed : s.ctl.inTrap = true ∨ s.ctl.delayCount ≠ 0 → ¬BoundaryOpen s := by
      rintro h ⟨hin, hdelay, -⟩
      rcases h with h | h
      · simp [hin] at h
      · exact h hdelay
    have hnone : intAccepted s ≠ some .int2 ∧ intAccepted s ≠ some .trapBi := by
      rcases intAccepted_cases s with h | h | h <;> simp [h]
    refine ⟨fun h => ⟨?_, intAccepted_none fun hm => hclosed h hm.1⟩, biAccepted_iff s, fun h => intAccepted_none ?_,
      intAccepted_int0_iff s, intAccepted_int1_iff s, hnone.1, hnone.2, int1Line_iff s, fun hin => ⟨step_biAccepted hin,
      fun hbi => ⟨fun e => step_intAccepted hin hbi, step_fetchBreak hin hbi⟩⟩⟩
    · rw [← Bool.not_eq_true, biAccepted_iff]
      rintro ⟨-, hopen, -⟩
      exact hclosed h hopen
    · rintro ⟨-, hie, hfetch, -⟩
      rcases h with h | h
      · simp [hie] at h
      · omega
  · obtain ⟨h01, h2, hbi⟩ := afterInstr_delays i a b t
    obtain ⟨rows01, left01, one01⟩ := delayColumn i a b (f := fun d => d.1) (fun _ _ => rfl) rfl
      (b.tm.delay01 - cyclesOf (instrInfo i) b)
    obtain ⟨rows2, left2, one2⟩ := delayColumn i a b (f := fun d => d.2.1) (fun _ _ => rfl) rfl
      (b.tm.delay2 - cyclesOf (instrInfo i) b)
    obtain ⟨rowsBi, leftBi, oneBi⟩ := delayColumn i a b (f := fun d => d.2.2) (fun _ _ => rfl) rfl
      (b.tm.delayBi - cyclesOf (instrInfo i) b)
    rw [← h01] at rows01 left01 one01
    rw [← h2] at rows2 left2 one2
    rw [← hbi] at rowsBi leftBi oneBi
    obtain ⟨hdata1, hdata2⟩ := afterInstr_biData i a b t
    exact ⟨notAccepted_after_lastRepetition i a b t, notAccepted_after_trapRet_or_st0 i a b t,
      fun r hr hact => ⟨rows01 r hr hact, rows2 r hr hact, rowsBi r hr hact⟩, left01, left2, leftBi, one01, one2, oneBi, rfl,
      hdata1, hdata2, afterInstr_singleStep i a b t, afterInstr_jump_breaks i a b t, afterInstr_return_breaks i a b t,
      afterInstr_block_breaks i a b t⟩
  · exact ⟨afterInstr_trace_kept i a b hlen, afterInstr_trace_jump i a b hlen,
      fun src hsrc => afterInstr_trace_return i a b hlen hsrc⟩
  · have hvector : p.2 = vectorOf p.1 := (maskable_cases hp).2.symm
    rw [hvector]
    exact takeInterrupt_trace h hlen
  · exact ⟨(ocemFetch_effect a s).1, ocemFetch_breaks s a⟩
  · exact ⟨fun h => ⟨dataRead_ram_watched hout h, dataWrite_ram_watched hout h v⟩,
      fun hille h => ⟨dataRead_illegal hout hille h, dataWrite_illegal hout hille h v⟩,
      fun r k hr => ⟨fun hm => (readReg_port hr s).symm ▸ ocemExtWatch_breaks hout hm,
        fun hm => (writeReg_port hr v s).symm ▸ ocemExtWatch_breaks hout hm⟩⟩

end Sys2Proof.Machine
end

section
/-! What the core reads of the codec and of the emulation module (R502, R505, R515, R531 to R537). -/

namespace Sys2Proof.Machine

/-! ## Reading a device that is not watched -/

section
variable {a v : Word} {s t : State}

theorem dataRead_codec (hu : Unwatched s) (h : dataRegion a = .codec) : dataRead a s = .next (codecRead a s) := by
  rw [dataRead_unwatched hu, dataReadRaw, h]

theorem reads_codec (hu : Unwatched s) (h : dataRegion a = .codec) (hr : codecRead a s = (v, t)) : Reads a s v t :=
  (dataRead_codec hu h).trans (congrArg _ hr)

theorem reads_ocem (hu : Unwatched s) (h : dataRegion a = .ocem) (hr : ocemRead a s = (v, t)) : Reads a s v t := by
  rw [Reads, dataRead_unwatched hu, dataReadRaw, h, hr]

/-- A watched read of an OCEM register gives the register all the same. -/
theorem dataRead_ocem (h : dataRegion a = .ocem) :
    dataRead a s = .next ((ocemRead a s).1, ocemWatch true a (some (ocemRead a s).1) s (ocemRead a s).2) := by
  rw [dataRead, dataReadRaw, h, andThen_next]

end

/-! ## CODRX -/

/-- The two halves of an entry as numbers, the high one first (R537). -/
theorem codecSplit_eq_ofNat (e : BitVec 32) :
    codecSplit e = (BitVec.ofNat 16 (e.toNat / 65536), BitVec.ofNat 16 (e.toNat % 65536)) := by
  have hhigh : e.extractLsb' 16 16 = BitVec.ofNat 16 (e.toNat / 65536) := by
    rw [BitVec.extractLsb', Nat.shiftRight_eq_div_pow]
  have hlow : e.extractLsb' 0 16 = BitVec.ofNat 16 (e.toNat % 65536) := by
    apply BitVec.eq_of_toNat_eq
    rw [BitVec.extractLsb'_toNat, Nat.shiftRight_zero, BitVec.toNat_ofNat, Nat.mod_mod]
  rw [codecSplit, Config.codecHighFirst, if_pos rfl, hhigh, hlow]

/-- A latch set on a condition, as a change of CODSTS alone (R535). -/
theorem codecFlagIf_eq (b : Bool) (k : Nat) (c : Codec) :
    codecFlagIf b k c = { c with sts := if b = true then c.sts ||| (1#7 <<< k) else c.sts } := by
  cases b <;> rfl

theorem codecRxPopped_eq (c : Codec) :
    codecRxPopped c = { c with sts := if c.rxFifo = [] then c.sts ||| 4#7 else c.sts } := by
  rw [codecRxPopped, codecFlagIf_eq, if_congr List.isEmpty_iff rfl rfl]
  rfl

section
variable {s : State}

theorem codecRxRead_empty (hhalf : s.codec.rxHalf = none) (hfifo : s.codec.rxFifo = []) :
    codecRxRead s = freeRead s := by
  rw [codecRxRead, hhalf, hfifo]

theorem codecRxRead_word {e : BitVec 32} {rest : List (BitVec 32)} (hhalf : s.codec.rxHalf = none)
    (hfifo : s.codec.rxFifo = e :: rest) (hdws : s.codec.sck.getLsbD 11 = false) :
    codecRxRead s = ((codecSplit e).2, { s with codec := codecRxPopped { s.codec with rxFifo := rest } }) := by
  rw [codecRxRead, hhalf, hfifo, codecWide, hdws]
  rfl

theorem codecRxRead_firstHalf {e : BitVec 32} {rest : List (BitVec 32)} (hhalf : s.codec.rxHalf = none)
    (hfifo : s.codec.rxFifo = e :: rest) (hdws : s.codec.sck.getLsbD 11 = true) : codecRxRead s =
      ((codecSplit e).1, { s with codec := { s.codec with rxFifo := rest, rxHalf := some (codecSplit e).2 } }) := by
  rw [codecRxRead, hhalf, hfifo, codecWide, hdws]
  rfl

theorem codecRxRead_secondHalf {h : Word} (hhalf : s.codec.rxHalf = some h) :
    codecRxRead s = (h, { s with codec := codecRxPopped { s.codec with rxHalf := none } }) := by
  rw [codecRxRead, hhalf]

end

/-! ## STATUS1 -/

/-- STATUS1 as a number, field by field (R505). -/
theorem toNat_ocemStatus1 (o : Ocem) : (ocemStatus1 o).toNat = o.dbg.toNat * 2 ^ 15 + o.boot.toNat * 2 ^ 14 +
    o.err.toNat * 2 ^ 13 + o.mvd.toNat * 2 ^ 12 + (o.trace.headD traceUnused).tag.toNat := by
  simp only [ocemStatus1, toNat_append_eq_add, BitVec.toNat_ofBool, BitVec.toNat_ofNat]
  omega

/-- PFT takes the first stage off and puts an unused one behind the others (R515). -/
theorem ocemRead_pft {s : State} {e : TraceEntry} {rest : List TraceEntry} (h : s.ocem.trace = e :: rest) :
    ocemRead 0xF7F0 s = (e.addr, { s with ocem := { s.ocem with trace := rest ++ [traceUnused] } }) := by
  change ((s.ocem.trace.headD traceUnused).addr,
    { s with ocem := { s.ocem with trace := s.ocem.trace.tail ++ [traceUnused] } }) = _
  rw [h]
  rfl

theorem ocemRead_status1 {s : State} {e : TraceEntry} {rest : List TraceEntry} (h : s.ocem.trace = e :: rest) :
    ocemRead 0xF7FE s = (BitVec.ofNat 16 (s.ocem.dbg.toNat * 2 ^ 15 + s.ocem.boot.toNat * 2 ^ 14 +
      s.ocem.err.toNat * 2 ^ 13 + s.ocem.mvd.toNat * 2 ^ 12 + e.tag.toNat), s) := by
  have hstatus := toNat_ocemStatus1 s.ocem
  rw [h, List.headD_cons] at hstatus
  rw [← hstatus, BitVec.ofNat_toNat, BitVec.setWidth_eq]
  rfl

/-- Settles O11: MODE0 in every state, then each register of the codec and of the emulation module in turn. -/
theorem deviceReads : Obligations.DeviceReads := by
  refine fun s => ⟨⟨_, dataRead_ocem (by decide), rfl, ocemWatch_frame ..⟩, fun hu => ?_⟩
  have codec : ∀ {a v t}, dataRegion a = .codec → codecRead a s = (v, t) → Reads a s v t := reads_codec hu
  have ocem : ∀ {a v t}, dataRegion a = .ocem → ocemRead a s = (v, t) → Reads a s v t := reads_ocem hu
  have codrx : ∀ {v t}, codecRxRead s = (v, t) → Reads 0xEC0A s v t := fun h => codec (by decide) h
  refine ⟨codec (by decide) rfl, codec (by decide) rfl, codec (by decide) rfl, codec (by decide) rfl,
    ⟨_, dataRead_codec hu (by decide), rfl⟩, fun hhalf hfifo => ⟨_, codrx (codecRxRead_empty hhalf hfifo), rfl⟩,
    fun e rest hhalf hfifo => ⟨fun hdws => ?_, fun hdws => ?_⟩, fun h hhalf => ?_,
    ocem (by decide) rfl, ocem (by decide) rfl, ocem (by decide) rfl, ocem (by decide) rfl, ocem (by decide) rfl,
    ocem (by decide) rfl, ocem (by decide) rfl, ?_, ?_, ?_,
    fun e rest h => ⟨ocem (by decide) (ocemRead_pft h), ocem (by decide) (ocemRead_status1 h)⟩⟩
  · refine codrx ((codecRxRead_word hhalf hfifo hdws).trans ?_)
    rw [codecSplit_eq_ofNat, codecRxPopped_eq]
  · refine codrx ((codecRxRead_firstHalf hhalf hfifo hdws).trans ?_)
    rw [codecSplit_eq_ofNat]
  · refine codrx ((codecRxRead_secondHalf hhalf).trans ?_)
    rw [codecRxPopped_eq]
  all_goals
    rw [BitVec.ofNat_toNat]
    exact ocem (by decide) rfl

end Sys2Proof.Machine
end

section
/-! The mailbox as the ARM reaches it (R521 to R528). -/

namespace Sys2Proof.Machine

/-! ## Offsets of the ARM -/

/-- The byte offset of a word of the mailbox RAM (R521, R528). -/
def ramOffset (n : BitVec 8) : BitVec 10 := BitVec.ofNat 10 (2 * n.toNat)

/-- The byte offset of DPMBSk, and of DPMBCC as register 8 (R521). -/
def regOffset (k : Nat) : BitVec 10 := BitVec.ofNat 10 (0x200 + 4 * k)

theorem toNat_ramOffset (n : BitVec 8) : (ramOffset n).toNat = 2 * n.toNat := by
  rw [ramOffset, BitVec.toNat_ofNat]
  omega

/-- The address bits of a RAM offset: even, below the registers, with the number of its word. -/
theorem ramOffset_fields (n : BitVec 8) : (ramOffset n).getLsbD 0 = false ∧ (ramOffset n).getLsbD 9 = false ∧
    (ramOffset n).extractLsb' 1 8 = n := by
  have hn := n.isLt
  refine ⟨?_, ?_, BitVec.eq_of_toNat_eq ?_⟩
  · simp [BitVec.getLsbD, toNat_ramOffset]
  · rw [BitVec.getLsbD, toNat_ramOffset, Nat.testBit_lt_two_pow (by omega)]
  · rw [BitVec.extractLsb'_toNat, toNat_ramOffset, Nat.shiftRight_eq_div_pow]
    omega

/-- An even word stands at a word-aligned offset, the next one in the other half. -/
theorem ramOffset_even {n : BitVec 8} (h : n.getLsbD 0 = false) :
    (ramOffset n).extractLsb' 0 2 = 0#2 ∧ ramOffset n ||| 2#10 = ramOffset (n + 1) := by
  revert n
  decide

/-- The address bits of a register offset and of the half-word above it. -/
theorem regOffset_fields : ∀ k ≤ 8, (regOffset k).getLsbD 0 = false ∧ (regOffset k).getLsbD 1 = false ∧
    (regOffset k).getLsbD 9 = true ∧ ((regOffset k).extractLsb' 2 4).toNat = k ∧ (regOffset k).extractLsb' 0 2 = 0#2 ∧
    (regOffset k + 2).getLsbD 0 = false ∧ (regOffset k + 2).getLsbD 1 = true ∧ (regOffset k + 2).getLsbD 9 = true ∧
    ((regOffset k + 2).extractLsb' 2 4).toNat = k ∧ regOffset k ||| 2#10 = regOffset k + 2 := by
  decide

/-! ## Accesses of the ARM by alignment (R528) -/

section
variable {o : BitVec 10} {v : Word} {x : BitVec 32} {s : State}

theorem armReadHalf_even (h : o.getLsbD 0 = false) :
    armReadHalf o s = armRecord (.half o (armHalf o s).1) (armHalf o s).2 := by
  rw [armReadHalf, h, if_neg (by decide)]

theorem armWriteHalf_even (h : o.getLsbD 0 = false) : armWriteHalf o v s = armStore o v s := by
  rw [armWriteHalf, h, if_neg (by decide)]

theorem armReadWord_aligned (h : o.extractLsb' 0 2 = 0#2) : armReadWord o s =
    armRecord (.word o ((armHalf (o ||| 2#10) (armHalf o s).2).1 ++ (armHalf o s).1))
      (armHalf (o ||| 2#10) (armHalf o s).2).2 := by
  rw [armReadWord, h, if_pos (by decide)]

theorem armWriteWord_aligned (h : o.extractLsb' 0 2 = 0#2) : armWriteWord o x s =
    armStore (o ||| 2#10) (x.extractLsb' 16 16) (armStore o (x.extractLsb' 0 16) s) := by
  rw [armWriteWord, h, if_pos (by decide)]

theorem armHalfAccess_odd (h : o.toNat % 2 = 1) :
    armReadHalf o s = armRecord (.abort o) s ∧ armWriteHalf o v s = armRecord (.abort o) s := by
  have hodd : o.getLsbD 0 = true := by simp [BitVec.getLsbD, h]
  rw [armReadHalf, armWriteHalf, if_pos hodd, if_pos hodd]
  exact ⟨rfl, rfl⟩

theorem armWordAccess_misaligned (h : o.toNat % 4 ≠ 0) :
    armReadWord o s = armRecord (.abort o) s ∧ armWriteWord o x s = armRecord (.abort o) s := by
  have hlow : ¬(o.extractLsb' 0 2 == 0#2) = true := by
    rw [beq_iff_eq, ← BitVec.toNat_inj, BitVec.extractLsb'_toNat]
    exact h
  rw [armReadWord, armWriteWord, if_neg hlow, if_neg hlow]
  exact ⟨rfl, rfl⟩

end

/-! ## The mailbox RAM -/

section
variable {n : BitVec 8} {v : Word} {s : State}

theorem armHalf_ignored (h : oakOwns s.dpmb n = true) : armHalf (ramOffset n) s = freeRead s := by
  obtain ⟨-, hram, hn⟩ := ramOffset_fields n
  simp only [armHalf, hram, hn, h, if_true, Bool.false_eq_true, if_false]

theorem armHalf_ram (h : oakOwns s.dpmb n = false) : armHalf (ramOffset n) s = (memWord s.data (mailboxAddr n), s) := by
  obtain ⟨-, hram, hn⟩ := ramOffset_fields n
  simp only [armHalf, hram, hn, h, Bool.false_eq_true, if_false]

theorem armStore_ignored (h : oakOwns s.dpmb n = true) : armStore (ramOffset n) v s = s := by
  obtain ⟨-, hram, hn⟩ := ramOffset_fields n
  simp only [armStore, hram, hn, h, if_true, Bool.false_eq_true, if_false]

theorem armStore_ram (h : oakOwns s.dpmb n = false) :
    armStore (ramOffset n) v s = { s with data := memSetWord s.data (mailboxAddr n) v } := by
  obtain ⟨-, hram, hn⟩ := ramOffset_fields n
  simp only [armStore, hram, hn, h, Bool.false_eq_true, if_false]

/-- A half-word of the Oak's: a write is ignored, and a read gives an open word (R522, U10). -/
theorem armHalfAccess_ignored (h : oakOwns s.dpmb n = true) : armWriteHalf (ramOffset n) v s = s ∧
    armReadHalf (ramOffset n) s = armRecord (.half (ramOffset n) (freeRead s).1) (freeRead s).2 := by
  obtain ⟨heven, -⟩ := ramOffset_fields n
  rw [armWriteHalf_even heven, armStore_ignored h, armReadHalf_even heven, armHalf_ignored h]
  exact ⟨rfl, rfl⟩

/-- A half-word of the ARM's is stored and read (R522). -/
theorem armHalfAccess_ram (h : oakOwns s.dpmb n = false) :
    armWriteHalf (ramOffset n) v s = { s with data := memSetWord s.data (mailboxAddr n) v } ∧
      armReadHalf (ramOffset n) s = armRecord (.half (ramOffset n) (memWord s.data (mailboxAddr n))) s := by
  obtain ⟨heven, -⟩ := ramOffset_fields n
  rw [armWriteHalf_even heven, armStore_ram h, armReadHalf_even heven, armHalf_ram h]
  exact ⟨rfl, rfl⟩

/-- The two words of an aligned pair are in one block, so one side owns both (R527). -/
theorem oakOwns_next (d : Dpmb) (h : n.getLsbD 0 = false) : oakOwns d (n + 1) = oakOwns d n := by
  have hblock : ∀ m : BitVec 8, m.getLsbD 0 = false → (m + 1).extractLsb' 4 4 = m.extractLsb' 4 4 := by decide
  rw [oakOwns, oakOwns, hblock n h]

theorem mailboxAddr_next (h : n.getLsbD 0 = false) : mailboxAddr (n + 1) = mailboxAddr n + 1 := by
  revert n
  decide

theorem toNat_mailboxAddr (n : BitVec 8) : (mailboxAddr n).toNat = 0xE000 + n.toNat := by
  have hn := n.isLt
  rw [mailboxAddr, BitVec.toNat_add, BitVec.toNat_setWidth_of_le (by decide)]
  exact Nat.mod_eq_of_lt (by simp; omega)

/-- The word the ARM reads at a pair it owns: the word of the higher address on top (R528, D8). -/
theorem armReadWord_ram (hn : n.getLsbD 0 = false) (h : oakOwns s.dpmb n = false) : armReadWord (ramOffset n) s =
    armRecord (.word (ramOffset n) (memWord s.data (mailboxAddr n + 1) ++ memWord s.data (mailboxAddr n))) s := by
  obtain ⟨hlow, hhigh⟩ := ramOffset_even hn
  rw [armReadWord_aligned hlow, hhigh, armHalf_ram h, armHalf_ram ((oakOwns_next _ hn).trans h), mailboxAddr_next hn]

/-- Where each mailbox begins, by configuration, and where the last one ends (R527). -/
def mailboxBounds : List (BitVec 2 × List Nat) :=
  [(0#2, [0, 0x20, 0x40, 0x60, 0x80, 0xA0, 0xC0, 0xE0, 0x100]),
    (1#2, [0, 0x70, 0x80, 0x90, 0xB0, 0xD0, 0xE0, 0xF0, 0x100]),
    (2#2, [0, 0x40, 0x80, 0xA0, 0xC0, 0xD0, 0xE0, 0xF0, 0x100])]

/-- A block that has a word inside the bounds of mailbox `k` belongs to it, as the bounds fall between blocks. -/
theorem mailboxOf_bounds : ∀ p ∈ mailboxBounds, ∀ k < 8, ∀ block : BitVec 4,
    p.2.getD k 0 ≤ 16 * block.toNat + 15 → 16 * block.toNat < p.2.getD (k + 1) 0 → (mailboxOf p.1 block).toNat = k := by
  decide

theorem oakOwns_iff {d : Dpmb} {k : Nat} {p : BitVec 2 × List Nat} (hp : p ∈ mailboxBounds) (hk : k < 8)
    (hconfig : d.config = p.1) (hlow : p.2.getD k 0 ≤ n.toNat) (hhigh : n.toNat < p.2.getD (k + 1) 0) :
    oakOwns d n = true ↔ d.ato.getLsbD k = d.sem.getLsbD k := by
  have hblock : (n.extractLsb' 4 4).toNat = n.toNat / 16 := by
    have := n.isLt
    rw [BitVec.extractLsb'_toNat, Nat.shiftRight_eq_div_pow]
    omega
  have hbox := mailboxOf_bounds p hp k hk (n.extractLsb' 4 4) (by omega) (by omega)
  rw [oakOwns, hconfig, hbox, beq_iff_eq]

end

/-! ## The semaphores -/

section
variable {k : Nat} {v : Word} {s : State}

theorem armHalf_sem (hk : k < 8) : armHalf (regOffset k) s = (semRead s.dpmb k, s) := by
  obtain ⟨-, hlow, hreg, hnum, -⟩ := regOffset_fields k (by omega)
  simp only [armHalf, hreg, hlow, hnum, if_true, if_pos hk, Bool.false_eq_true, if_false]

theorem armHalf_semHigh (hk : k < 8) : armHalf (regOffset k + 2) s = (0#16, s) := by
  obtain ⟨-, -, -, -, -, -, hhigh, hreg, hnum, -⟩ := regOffset_fields k (by omega)
  simp only [armHalf, hreg, hhigh, hnum, if_true, if_pos hk]
  rfl

theorem armStore_sem (hk : k < 8) :
    armStore (regOffset k) v s = { s with dpmb := armSemWrite k (v.getLsbD 0) s.dpmb } := by
  obtain ⟨-, hlow, hreg, hnum, -⟩ := regOffset_fields k (by omega)
  simp only [armStore, hreg, hlow, hnum, if_true, if_pos hk, Bool.false_eq_true, if_false]

theorem armStore_semHigh (hk : k < 8) : armStore (regOffset k + 2) v s = s := by
  obtain ⟨-, -, -, -, -, -, hhigh, hreg, hnum, -⟩ := regOffset_fields k (by omega)
  simp only [armStore, hreg, hhigh, hnum, if_true, if_pos hk]

theorem armWriteHalf_sem (hk : k < 8) :
    armWriteHalf (regOffset k) v s = { s with dpmb := armSemWrite k (v.getLsbD 0) s.dpmb } := by
  obtain ⟨heven, -⟩ := regOffset_fields k (by omega)
  rw [armWriteHalf_even heven, armStore_sem hk]

theorem armWriteHalf_semHigh (hk : k < 8) : armWriteHalf (regOffset k + 2) v s = s := by
  obtain ⟨-, -, -, -, -, heven, -⟩ := regOffset_fields k (by omega)
  rw [armWriteHalf_even heven, armStore_semHigh hk]

/-- A word written to DPMBSk is its low half (R525, log 19). -/
theorem armWriteWord_sem (hk : k < 8) (x : BitVec 32) :
    armWriteWord (regOffset k) x s = { s with dpmb := armSemWrite k (x.getLsbD 0) s.dpmb } := by
  obtain ⟨-, -, -, -, haligned, -, -, -, -, hnext⟩ := regOffset_fields k (by omega)
  have hbit : (x.extractLsb' 0 16).getLsbD 0 = x.getLsbD 0 := by simp
  rw [armWriteWord_aligned haligned, hnext, armStore_semHigh hk, armStore_sem hk, hbit]

/-- An ARM Set or Clear of semaphore `k` leads from `s` to `w` (R524, Table 9). -/
def ArmOperates (k : Nat) (set : Bool) (s w : State) : Prop :=
  let d := s.dpmb
  let raises := d.ato.getLsbD k = set ∧ d.oie.getLsbD k = true
  w = { s with dpmb := { d with sem := w.dpmb.sem, ois := w.dpmb.ois, ais := w.dpmb.ais } } ∧
    w.dpmb.sem.getLsbD k = set ∧ (w.dpmb.ois.getLsbD k = true ↔ d.ois.getLsbD k = true ∨ raises) ∧
    (w.dpmb.ais.getLsbD k = true ↔ d.ais.getLsbD k = true ∧ set = true ∧ d.ato.getLsbD k = true) ∧
    (raises → int0Line w = true) ∧
    ∀ j, j ≠ k → w.dpmb.sem.getLsbD j = d.sem.getLsbD j ∧ w.dpmb.ois.getLsbD j = d.ois.getLsbD j ∧
      w.dpmb.ais.getLsbD j = d.ais.getLsbD j

/-- An Oak interrupt flag that is set holds the line (R523). -/
theorem int0Line_of_ois (h : s.dpmb.ois.getLsbD k = true) : int0Line s = true := by
  rw [int0Line, bne_iff_ne]
  rintro h0
  simp [h0] at h

theorem armOperates_armSemWrite (hk : k < 8) (set : Bool) (s : State) :
    ArmOperates k set s { s with dpmb := armSemWrite k set s.dpmb } := by
  have hbit := fun j => armSemWrite_bits s.dpmb j set hk
  obtain ⟨hsem, hois, hais⟩ := hbit k
  rw [if_pos rfl] at hsem hois hais
  have hraised : (armSemWrite k set s.dpmb).ois.getLsbD k = true ↔
      s.dpmb.ois.getLsbD k = true ∨ s.dpmb.ato.getLsbD k = set ∧ s.dpmb.oie.getLsbD k = true := by
    rw [hois, Bool.or_eq_true, Bool.and_eq_true, beq_iff_eq]
  refine ⟨rfl, hsem, hraised, ?_, fun hr => int0Line_of_ois (k := k) (hraised.2 (.inr hr)), fun j hj => ?_⟩
  · rw [hais, Bool.and_eq_true, Bool.and_eq_true]
  · simpa only [if_neg hj] using hbit j

/-- DPMBSk as a number (R525). -/
theorem toNat_semRead (d : Dpmb) (k : Nat) : (semRead d k).toNat =
    (d.sem.getLsbD k).toNat + 2 * (d.ais.getLsbD k).toNat + 4 * (d.ois.getLsbD k).toNat := by
  simp only [semRead, toNat_append_eq_add, BitVec.toNat_ofBool, BitVec.toNat_ofNat]
  omega

theorem armReadHalf_sem (hk : k < 8) : armReadHalf (regOffset k) s = armRecord (.half (regOffset k)
    (BitVec.ofNat 16 ((s.dpmb.sem.getLsbD k).toNat + 2 * (s.dpmb.ais.getLsbD k).toNat +
      4 * (s.dpmb.ois.getLsbD k).toNat))) s := by
  obtain ⟨heven, -⟩ := regOffset_fields k (by omega)
  rw [armReadHalf_even heven, armHalf_sem hk, ← toNat_semRead, BitVec.ofNat_toNat, BitVec.setWidth_eq]

theorem armReadWord_sem (hk : k < 8) : armReadWord (regOffset k) s = armRecord (.word (regOffset k)
    (BitVec.ofNat 32 ((s.dpmb.sem.getLsbD k).toNat + 2 * (s.dpmb.ais.getLsbD k).toNat +
      4 * (s.dpmb.ois.getLsbD k).toNat))) s := by
  obtain ⟨-, -, -, -, haligned, -, -, -, -, hnext⟩ := regOffset_fields k (by omega)
  have hword : 0#16 ++ semRead s.dpmb k = BitVec.ofNat 32 (semRead s.dpmb k).toNat := by
    apply BitVec.eq_of_toNat_eq
    have := (semRead s.dpmb k).isLt
    rw [toNat_append_eq_add, BitVec.toNat_ofNat, BitVec.toNat_ofNat]
    omega
  rw [armReadWord_aligned haligned, armHalf_sem hk, hnext, armHalf_semHigh hk, hword, toNat_semRead]

theorem oakSemWrite_clears_ois (d : Dpmb) (hk : k < 8) (set : Bool) : (oakSemWrite k set d).ois.getLsbD k = false := by
  obtain ⟨-, hois, -⟩ := oakSemWrite_bits d k set hk
  rw [hois, if_pos rfl]

end

/-! ## DPMBCC -/

section
variable (d : Dpmb) (s : State)

/-- A field of a half of a word, as a part of the number. -/
theorem extractLsb'_half_eq_ofNat (x : BitVec 32) (start low len : Nat) (h : low + len ≤ 16) :
    (x.extractLsb' start 16).extractLsb' low len = BitVec.ofNat len (x.toNat / 2 ^ (start + low)) := by
  apply BitVec.eq_of_getLsbD_eq
  intro i hi
  have hin : low + i < 16 := by omega
  rw [← Nat.shiftRight_eq_div_pow, BitVec.getLsbD_extractLsb', BitVec.getLsbD_extractLsb', BitVec.getLsbD_ofNat,
    Nat.testBit_shiftRight, BitVec.testBit_toNat, decide_eq_true hi, decide_eq_true hin, Bool.true_and, Bool.true_and,
    Bool.true_and, Nat.add_assoc]

/-- DPMBCC as a number, field by field (R526). -/
theorem toNat_dpmbccRead : (dpmbccRead d).toNat =
    d.config.toNat * 2 ^ 29 + d.oie.toNat * 2 ^ 16 + d.aie.toNat * 2 ^ 8 + d.ato.toNat := by
  simp only [dpmbccRead, toNat_append_eq_add, BitVec.toNat_ofNat]
  omega

theorem armReadWord_dpmbcc : armReadWord 0x220 s = armRecord (.word 0x220 (BitVec.ofNat 32
    (s.dpmb.config.toNat * 2 ^ 29 + s.dpmb.oie.toNat * 2 ^ 16 + s.dpmb.aie.toNat * 2 ^ 8 + s.dpmb.ato.toNat))) s := by
  have hhalves : (dpmbccRead s.dpmb).extractLsb' 16 16 ++ (dpmbccRead s.dpmb).extractLsb' 0 16 =
      BitVec.ofNat 32 (dpmbccRead s.dpmb).toNat := by
    rw [BitVec.ofNat_toNat]
    exact BitVec.extractLsb'_append_extractLsb'_eq_extractLsb' (by omega) |>.trans (by simp)
  rw [← toNat_dpmbccRead, ← hhalves]
  rfl

/-- A word written to DPMBCC, low half first: the fields as parts of the number, all of them cleared by RESET (R526, log
19). -/
theorem armWriteWord_dpmbcc (x : BitVec 32) : armWriteWord 0x220 x s = { s with
    dpmb := if x.getLsbD 31 then ⟨0, 0, 0, 0, 0, 0, 0⟩ else { s.dpmb with
      ato := BitVec.ofNat 8 x.toNat
      aie := BitVec.ofNat 8 (x.toNat / 2 ^ 8)
      oie := BitVec.ofNat 8 (x.toNat / 2 ^ 16)
      config := BitVec.ofNat 2 (x.toNat / 2 ^ 29) } } := by
  change { s with dpmb := dpmbccHigh (x.extractLsb' 16 16) (dpmbccLow (x.extractLsb' 0 16) s.dpmb) } = _
  have hreset : (x.extractLsb' 16 16).getLsbD 15 = x.getLsbD 31 := by simp
  rw [dpmbccHigh, hreset, dpmbccLow]
  split
  · rfl
  · rw [extractLsb'_half_eq_ofNat x 0 0 8 (by decide), extractLsb'_half_eq_ofNat x 0 8 8 (by decide),
      extractLsb'_half_eq_ofNat x 16 0 8 (by decide), extractLsb'_half_eq_ofNat x 16 13 2 (by decide), pow_zero, Nat.div_one]

end

end Sys2Proof.Machine
end

section
/-! What the other agents do between two steps: the codec, a reset by the host, and the order of the events (R400, R541,
R551, R554). -/

namespace Sys2Proof.Machine

/-! ## The codec's agent -/

/-- The arrival of the received word `x` leads from the codec `c` to `d` (R532, R538, R541): RXF at the depth, RXW at the
level FPS, ROV on a full FIFO. -/
def CodecArrival (x : BitVec 32) (c d : Codec) : Prop :=
  if Config.codecFifoDepth ≤ c.rxFifo.length then d = { c with sts := c.sts ||| 0x40#7 }
  else d = { c with rxFifo := c.rxFifo ++ [x], sts := d.sts } ∧ ∀ j, d.sts.getLsbD j = true ↔
    c.sts.getLsbD j = true ∨ (j = 3 ∧ c.rxFifo.length + 1 = Config.codecFifoDepth) ∨
      (j = 4 ∧ c.rxFifo.length + 1 = c.sck.toNat / 2 ^ 14)

/-- A latch set on a condition, bit by bit. -/
theorem getLsbD_codecFlagIf (b : Bool) {k : Nat} (hk : k < 7) (c : Codec) (j : Nat) :
    (codecFlagIf b k c).sts.getLsbD j = true ↔ c.sts.getLsbD j = true ∨ (j = k ∧ b = true) := by
  have hbit : (1#7 <<< k).getLsbD j = true ↔ j = k := by
    rw [← BitVec.twoPow_eq, BitVec.getLsbD_twoPow, decide_eq_true hk, Bool.true_and, decide_eq_true_iff, eq_comm]
  cases b
  · simp [codecFlagIf]
  · rw [codecFlagIf, if_pos rfl, codecFlag, BitVec.getLsbD_or, Bool.or_eq_true, hbit]
    simp

theorem codecArrive_arrival (x : BitVec 32) (c : Codec) : CodecArrival x c (codecArrive x c) := by
  unfold CodecArrival codecArrive
  split
  next => rfl
  next hroom =>
    have hlevel : (c.sck.extractLsb' 14 2).toNat = c.sck.toNat / 2 ^ 14 := by
      have := c.sck.isLt
      rw [BitVec.extractLsb'_toNat, Nat.shiftRight_eq_div_pow]
      omega
    refine ⟨by simp only [codecFlagIf_eq], fun j => ?_⟩
    rw [getLsbD_codecFlagIf _ (by decide), getLsbD_codecFlagIf _ (by decide), hlevel, decide_eq_true_iff, decide_eq_true_iff]
    have hdepth : Config.codecFifoDepth ≤ c.rxFifo.length + 1 ↔ c.rxFifo.length + 1 = Config.codecFifoDepth := by omega
    rw [hdepth, or_assoc, or_comm (a := j = 4 ∧ _)]

section
variable {c : Codec} {x : BitVec 32}

theorem codecDeliver_enabled (hren : c.cnt.getLsbD 1 = true) (hloop : c.cnt.getLsbD 13 = false) :
    codecDeliver x c = codecArrive x c := by
  rw [codecDeliver, hren, hloop, if_pos (by decide)]

theorem codecDeliver_ignored (h : c.cnt.getLsbD 1 = false ∨ c.cnt.getLsbD 13 = true) : codecDeliver x c = c := by
  rw [codecDeliver, if_neg]
  rcases h with h | h
  · rw [h, Bool.false_and]
    exact Bool.false_ne_true
  · rw [h, Bool.not_true, Bool.and_false]
    exact Bool.false_ne_true

theorem codecTake_nothing (h : c.cnt.getLsbD 0 = false ∨ c.txFifo = []) : codecTake c = c := by
  unfold codecTake
  rcases h with h | h
  · rw [h, if_neg (by decide)]
  · rw [h, ite_self]

/-- The codec after its agent took the oldest word and left `rest`: TXE when that was the last one (R538). -/
def codecTaken (c : Codec) (rest : List (BitVec 32)) : Codec :=
  { c with txFifo := rest, sts := if rest = [] then c.sts ||| 1#7 else c.sts }

theorem codecTake_word {rest : List (BitVec 32)} (hten : c.cnt.getLsbD 0 = true) (hfifo : c.txFifo = x :: rest) :
    codecTake c = if c.cnt.getLsbD 13 && c.cnt.getLsbD 1 then codecArrive x (codecTaken c rest) else codecTaken c rest := by
  have htaken : codecFlagIf rest.isEmpty 0 { c with txFifo := rest } = codecTaken c rest := by
    rw [codecFlagIf_eq, if_congr List.isEmpty_iff rfl rfl]
    rfl
  rw [codecTake, if_pos hten, hfifo, ← htaken]

/-- With LOOP and REN the taken word arrives at the receive FIFO (R541, log 25). -/
theorem codecTake_looped {rest : List (BitVec 32)} (hten : c.cnt.getLsbD 0 = true) (hfifo : c.txFifo = x :: rest)
    (hloop : c.cnt.getLsbD 13 = true) (hren : c.cnt.getLsbD 1 = true) :
    codecTake c = codecArrive x (codecTaken c rest) := by
  rw [codecTake_word hten hfifo, hloop, hren, if_pos (by decide)]

theorem codecTake_sent {rest : List (BitVec 32)} (hten : c.cnt.getLsbD 0 = true) (hfifo : c.txFifo = x :: rest)
    (h : c.cnt.getLsbD 13 = false ∨ c.cnt.getLsbD 1 = false) : codecTake c = codecTaken c rest := by
  rw [codecTake_word hten hfifo, if_neg]
  rcases h with h | h
  · rw [h, Bool.false_and]
    exact Bool.false_ne_true
  · rw [h, Bool.and_false]
    exact Bool.false_ne_true

end

/-! ## A reset by the host -/

section
variable {s : State}

/-- With the flags and the modes of reset all of st0 below the extension of a0 is 0 (R36, R75). -/
theorem st0Image_reset (hfl : s.fl = Flags.reset) (hsat : s.md.sat = false) (hie : s.md.ie = false)
    (him0 : s.md.im0 = false) (him1 : s.md.im1 = false) : st0Image s &&& 0x0EFF#16 = 0 := by
  apply BitVec.eq_of_getLsbD_eq
  intro i hi
  rw [BitVec.getLsbD_and, getLsbD_st0Image s hi, hfl, hsat, hie, him0, him1]
  interval_cases i <;> simp [Flags.reset]

theorem st2Image_reset (hm : s.md.mEn = 0) (him2 : s.md.im2 = false) (hs : s.md.s = false) (h0 : s.md.ou0 = false)
    (h1 : s.md.ou1 = false) : st2Image s &&& 0x03FF#16 = 0 := by
  apply BitVec.eq_of_getLsbD_eq
  intro i hi
  rw [BitVec.getLsbD_and, getLsbD_st2Image s hi, hm, him2, hs, h0, h1]
  interval_cases i <;> simp

theorem icrImage_reset (hbc : s.ctl.bc = 0) (hlp : s.ctl.lp = false) (h2 : s.md.ic2 = false) (h1 : s.md.ic1 = false)
    (h0 : s.md.ic0 = false) (hnmi : s.md.nmic = false) : icrImage s = 0 := by
  apply BitVec.eq_of_toNat_eq
  rw [toNat_icrImage, hbc, hlp, h2, h1, h0, hnmi]
  rfl

end

/-! ## The events of a step -/

/-- OCEM_ABORT at its default does nothing (R504, log 39). -/
theorem ocemExternal_eq (s : State) : ocemExternal s = s := rfl

theorem andThen_next_right {α : Type} (r : Res α) : (andThen r fun t => .next t) = r := by
  cases r <;> rfl

theorem step_eq (s : State) : step s = andThen (scheduled s) coreStep := by
  simp only [step, agentStep, ocemExternal_eq, andThen_next_right]

theorem step_of_events {s : State} {es : List AgentEvent} {rest : List (List AgentEvent)} (h : s.inputs = es :: rest) :
    step s = andThen (applyEvents es { s with inputs := rest }) coreStep := by
  rw [step_eq, scheduled, h]

theorem step_of_no_events {s : State} (h : s.inputs = []) : step s = coreStep s := by
  rw [step, agentStep_of_no_inputs h, andThen_next]

/-- Settles O59: the two sides on the mailbox RAM, on the semaphores and on DPMBCC, then the events of a step. -/
theorem mailboxAgents : Obligations.MailboxAgents := by
  intro s v n k hk
  refine ⟨fun p hp hconfig hlow hhigh => oakOwns_iff hp hk hconfig hlow hhigh, fun howns => ?_, fun howns => ?_,
    ⟨?_, fun x => ?_, armWriteHalf_semHigh hk⟩, oakSemWrite_clears_ois s.dpmb hk, bne_iff_ne.trans BitVec.toNat_ne,
    bne_iff_ne.trans BitVec.toNat_ne, ⟨armReadHalf_sem hk, armReadWord_sem hk⟩, armReadWord_dpmbcc s,
    armWriteWord_dpmbcc s, fun o x => ⟨armHalfAccess_odd, armWordAccess_misaligned⟩, step_of_no_events,
    fun es rest => step_of_events, rfl, fun e es => rfl, fun o x => ⟨rfl, rfl, rfl, rfl, rfl⟩, fun b => ⟨rfl, rfl⟩,
    ⟨fun x => ?_, ?_⟩, fun cycles image => ⟨fun h => if_pos h, fun h => ?_⟩⟩
  · obtain ⟨hwrite, hread⟩ := armHalfAccess_ignored (v := v) howns
    exact ⟨hwrite, _, hread⟩
  · obtain ⟨hwrite, hread⟩ := armHalfAccess_ram (v := v) howns
    dsimp only
    rw [← ramOffset, hwrite]
    exact ⟨fun hwf => memWord_setWord_self _ v hwf,
      fun a h0 h1 => memByte_setWord_ne _ _ v (toNat_mailboxAddr n ▸ h0) (toNat_mailboxAddr n ▸ h1), rfl, hread,
      fun hn => armReadWord_ram hn howns⟩
  · exact armWriteHalf_sem hk ▸ armOperates_armSemWrite hk _ s
  · exact armWriteWord_sem hk x ▸ armOperates_armSemWrite hk _ s
  · refine ⟨_, rfl, rfl, fun hren hloop => ?_, fun h => ?_⟩
    · exact codecDeliver_enabled hren hloop ▸ codecArrive_arrival x s.codec
    · rw [codecDeliver_ignored h]
  · refine ⟨_, rfl, rfl, fun h => ?_, fun x rest hten hfifo => ⟨fun hloop hren => ?_, fun h => ?_⟩⟩
    · rw [codecTake_nothing h]
    · exact codecTake_looped hten hfifo hloop hren ▸ codecArrive_arrival x (codecTaken s.codec rest)
    · exact codecTake_sent hten hfifo h
  · exact ⟨_, if_neg (by omega), rfl, st0Image_reset rfl rfl rfl rfl rfl, rfl, st2Image_reset rfl rfl rfl rfl rfl,
      icrImage_reset rfl rfl rfl rfl rfl rfl, rfl, rfl, rfl, rfl, rfl, rfl, rfl, rfl, rfl, rfl, rfl, rfl, rfl, rfl, rfl, rfl,
      rfl, rfl,
      fun before a x after himage hlast hmapped hwf => himage ▸ memWord_uploadImage before after a x hmapped hlast hwf,
      fun j hj => memByte_uploadImage image s.prog hj⟩

end Sys2Proof.Machine
end
